-- ==== Sys2Proof/Word.lean ====
section
/-!
DEFINITION. The plain words of the model: bytes, byte strings and the widths the spec names
(spec/00_scope.md R6, R11). Nothing here is arithmetic: byte order is in Machine/Bytes.lean.
-/

namespace Sys2Proof

/-- One byte, 8 bits everywhere (R60). -/
abbrev Byte := BitVec 8

/-- A byte string, byte 0 first (R11). -/
abbrev Bytes := List Byte

/-- A 12-bit method (R21). -/
abbrev Method := BitVec 12

/-- A 2-bit class (R22). -/
abbrev MsgClass := BitVec 2

/-- A 16-bit number: an attribute type code, an attribute length, a Message Length, `INFO` (R6, R20). -/
abbrev Word16 := BitVec 16

/-- A 32-bit number: a transaction-id word, the magic cookie, a CRC, a response word (R6, R92). -/
abbrev Word32 := BitVec 32

/-- A 64-bit command descriptor (R90). -/
abbrev Descriptor := BitVec 64

/-- An offset into the output buffer, 17 bits (R60). -/
abbrev Offset := BitVec 17

end Sys2Proof
end

