-- ==== Sys2Proof/Machine/Bytes.lean ====
section
/-!
DEFINITION. Byte order: the block is big-endian throughout (spec/20_memory.md R61, R63, R64; spec/00_scope.md R11).
-/

namespace Sys2Proof

/-- `be16(v)`: the bytes `v[15:8]`, `v[7:0]` (R11). -/
def be16 (v : Word16) : Bytes :=
  [v.extractLsb' 8 8, v.extractLsb' 0 8]

/-- `be32(v)`: the bytes `v[31:24]`, `v[23:16]`, `v[15:8]`, `v[7:0]` (R11). -/
def be32 (v : Word32) : Bytes :=
  [v.extractLsb' 24 8, v.extractLsb' 16 8, v.extractLsb' 8 8, v.extractLsb' 0 8]

/-- The 16-bit number two bytes hold, most significant byte first. -/
def word16 (b0 b1 : Byte) : Word16 :=
  b0 ++ b1

/-- The 32-bit number four bytes hold, most significant byte first:
`b0<<24 | b1<<16 | b2<<8 | b3` (R94). -/
def word32 (b0 b1 b2 b3 : Byte) : Word32 :=
  b0 ++ b1 ++ b2 ++ b3

/-- The `k`-th 32-bit word of a payload, most significant byte first (R94). A payload of a legal command
is long enough (R95 test 4 and 5), so the bytes past its end are never asked for. -/
def payloadWord (p : Bytes) (k : Nat) : Word32 :=
  word32 (p.getD (4 * k) 0) (p.getD (4 * k + 1) 0) (p.getD (4 * k + 2) 0) (p.getD (4 * k + 3) 0)

end Sys2Proof
end

