-- ==== Sys2Proof/Syntax.lean ====
section
/-!
DEFINITION. The abstract commands of the block: one constructor per row of spec/opcode_table.json
(spec/30_encoding.md R100), with the operands R94 assembles. The payload of a command is an operand (R38).
-/

namespace Sys2Proof

/-- The fifteen opcodes of R100. -/
inductive Opcode where
  | clear
  | setMethod
  | setClass
  | setTid
  | setFpEn
  | setMiEn
  | setPassword
  | getStatus
  | setAttrRequestedTransport
  | setAttrLifetime
  | setAttrUsername
  | setAttrRealm
  | setAttrNonce
  | addAttr
  | serialize
  deriving DecidableEq, Repr

/-- A command with its operands assembled (R94, R100). -/
inductive Instr where
  /-- `CLEAR` (R131). -/
  | clear
  /-- `SET_METHOD M` (R132). -/
  | setMethod (m : Method)
  /-- `SET_CLASS C` (R133). -/
  | setClass (c : MsgClass)
  /-- `SET_TID w0, w1, w2` (R134). -/
  | setTid (w0 w1 w2 : Word32)
  /-- `SET_FP_EN f` (R135). -/
  | setFpEn (f : Bool)
  /-- `SET_MI_EN f` (R136). -/
  | setMiEn (f : Bool)
  /-- `SET_PASSWORD bytes` (R137). -/
  | setPassword (p : Bytes)
  /-- `GET_STATUS` (R139). -/
  | getStatus
  /-- `SET_ATTR_REQUESTED_TRANSPORT` (R168). -/
  | setAttrRequestedTransport
  /-- `SET_ATTR_LIFETIME n` (R169). -/
  | setAttrLifetime (n : Word32)
  /-- `SET_ATTR_USERNAME bytes` (R170). -/
  | setAttrUsername (p : Bytes)
  /-- `SET_ATTR_REALM bytes` (R171). -/
  | setAttrRealm (p : Bytes)
  /-- `SET_ATTR_NONCE bytes` (R172). -/
  | setAttrNonce (p : Bytes)
  /-- `ADD_ATTR t, bytes` (R166). -/
  | addAttr (t : Word16) (v : Bytes)
  /-- `SERIALIZE` (R199). -/
  | serialize
  deriving DecidableEq, Repr

end Sys2Proof
end

