-- ==== Sys2Proof/Machine/Operands.lean ====
section
/-!
DEFINITION. Every operand form of the block: which immediates and payload lengths are legal for each opcode and
how the operand is assembled (spec/30_encoding.md R94, R95 tests 3 and 4, R96), and the way back, for the encoder.
-/

namespace Sys2Proof

/-- Is `A` a legal immediate of the opcode? (R94; R95 test 3; out-of-range values are refused, not truncated, R96.) -/
def immediateLegal (o : Opcode) (a : Word16) : Bool :=
  match o with
  | .setMethod => a.extractLsb' 12 4 == 0
  | .setClass => a.extractLsb' 2 14 == 0
  | .setFpEn => a.extractLsb' 1 15 == 0
  | .setMiEn => a.extractLsb' 1 15 == 0
  | .addAttr => true
  | .clear => a == 0
  | .setTid => a == 0
  | .setPassword => a == 0
  | .getStatus => a == 0
  | .setAttrRequestedTransport => a == 0
  | .setAttrLifetime => a == 0
  | .setAttrUsername => a == 0
  | .setAttrRealm => a == 0
  | .setAttrNonce => a == 0
  | .serialize => a == 0

/-- Is `B` a legal payload length of the opcode? (R94; R95 test 4.) -/
def lengthLegal (o : Opcode) (b : Word16) : Bool :=
  match o with
  | .setTid => b == 12
  | .setAttrLifetime => b == 4
  | .setPassword => true
  | .setAttrUsername => true
  | .setAttrRealm => true
  | .setAttrNonce => true
  | .addAttr => true
  | .clear => b == 0
  | .setMethod => b == 0
  | .setClass => b == 0
  | .setFpEn => b == 0
  | .setMiEn => b == 0
  | .getStatus => b == 0
  | .setAttrRequestedTransport => b == 0
  | .serialize => b == 0

/-- The command an opcode makes of its immediate and payload (R94). -/
def assemble (o : Opcode) (a : Word16) (p : Bytes) : Instr :=
  match o with
  | .clear => .clear
  | .setMethod => .setMethod (a.extractLsb' 0 12)
  | .setClass => .setClass (a.extractLsb' 0 2)
  | .setTid => .setTid (payloadWord p 0) (payloadWord p 1) (payloadWord p 2)
  | .setFpEn => .setFpEn (a.getLsbD 0)
  | .setMiEn => .setMiEn (a.getLsbD 0)
  | .setPassword => .setPassword p
  | .getStatus => .getStatus
  | .setAttrRequestedTransport => .setAttrRequestedTransport
  | .setAttrLifetime => .setAttrLifetime (payloadWord p 0)
  | .setAttrUsername => .setAttrUsername p
  | .setAttrRealm => .setAttrRealm p
  | .setAttrNonce => .setAttrNonce p
  | .addAttr => .addAttr a p
  | .serialize => .serialize

/-- The opcode of a command (R100). -/
def opcodeOf : Instr → Opcode
  | .clear => .clear
  | .setMethod _ => .setMethod
  | .setClass _ => .setClass
  | .setTid _ _ _ => .setTid
  | .setFpEn _ => .setFpEn
  | .setMiEn _ => .setMiEn
  | .setPassword _ => .setPassword
  | .getStatus => .getStatus
  | .setAttrRequestedTransport => .setAttrRequestedTransport
  | .setAttrLifetime _ => .setAttrLifetime
  | .setAttrUsername _ => .setAttrUsername
  | .setAttrRealm _ => .setAttrRealm
  | .setAttrNonce _ => .setAttrNonce
  | .addAttr _ _ => .addAttr
  | .serialize => .serialize

/-- The immediate `A` that spells a command's operand (R94); zero where the command has none. -/
def immediateOf : Instr → Word16
  | .setMethod m => m.zeroExtend 16
  | .setClass c => c.zeroExtend 16
  | .setFpEn f => (BitVec.ofBool f).zeroExtend 16
  | .setMiEn f => (BitVec.ofBool f).zeroExtend 16
  | .addAttr t _ => t
  | .clear => 0
  | .setTid _ _ _ => 0
  | .setPassword _ => 0
  | .getStatus => 0
  | .setAttrRequestedTransport => 0
  | .setAttrLifetime _ => 0
  | .setAttrUsername _ => 0
  | .setAttrRealm _ => 0
  | .setAttrNonce _ => 0
  | .serialize => 0

/-- The payload that spells a command's operand (R93, R94, D22); empty where the command has none. -/
def payloadOf : Instr → Bytes
  | .setTid w0 w1 w2 => be32 w0 ++ be32 w1 ++ be32 w2
  | .setPassword p => p
  | .setAttrLifetime n => be32 n
  | .setAttrUsername p => p
  | .setAttrRealm p => p
  | .setAttrNonce p => p
  | .addAttr _ v => v
  | .clear => []
  | .setMethod _ => []
  | .setClass _ => []
  | .setFpEn _ => []
  | .setMiEn _ => []
  | .getStatus => []
  | .setAttrRequestedTransport => []
  | .serialize => []

end Sys2Proof
end

