-- ==== Sys2Proof/WellFormed.lean ====
section
/-!
DEFINITION. When an abstract command can be spelled in bits: its payload length fits the 16-bit field `B`
of the descriptor (spec/30_encoding.md R90). Every other operand has its exact width in its type.
-/

namespace Sys2Proof

/-- The longest payload a descriptor can announce, `B` = 65535 (R90). -/
abbrev maxPayload : Nat := 65535

/-- A command whose payload fits the field `B`. -/
def Instr.wellFormed : Instr → Bool
  | .clear => true
  | .setMethod _ => true
  | .setClass _ => true
  | .setTid _ _ _ => true
  | .setFpEn _ => true
  | .setMiEn _ => true
  | .setPassword p => decide (p.length ≤ maxPayload)
  | .getStatus => true
  | .setAttrRequestedTransport => true
  | .setAttrLifetime _ => true
  | .setAttrUsername p => decide (p.length ≤ maxPayload)
  | .setAttrRealm p => decide (p.length ≤ maxPayload)
  | .setAttrNonce p => decide (p.length ≤ maxPayload)
  | .addAttr _ v => decide (v.length ≤ maxPayload)
  | .serialize => true

end Sys2Proof
end

