-- ==== Sys2Proof/Decode.lean ====
section
/-!
DEFINITION. The command encoding `CMD64` (spec/30_encoding.md R90 to R100): the decoder, total on every pair of a
64-bit descriptor and a payload, the table of R100, the encoder, and the instruction a word of
spec/opcode_table.json stands for.
-/

namespace Sys2Proof

/-- Which of the five tests of R95 makes a command illegal. All five raise `IllegalCommand` with the same `INFO`. -/
inductive Illegal where
  /-- Test 1: `OPC` is none of the fifteen opcodes. -/
  | opcode
  /-- Test 2: `RSV` is not zero. -/
  | reserved
  /-- Test 3: `A` is outside the legal values of the command. -/
  | immediate
  /-- Test 4: `B` is outside the legal values of the command. -/
  | length
  /-- Test 5: the payload does not have `B` bytes. -/
  | payload
  deriving DecidableEq, Repr

/-- Bits 63:56 of the descriptor (R90). -/
def fieldOpc (d : Descriptor) : BitVec 8 := d.extractLsb' 56 8

/-- Bits 55:32 of the descriptor (R90). -/
def fieldRsv (d : Descriptor) : BitVec 24 := d.extractLsb' 32 24

/-- Bits 31:16 of the descriptor (R90). -/
def fieldA (d : Descriptor) : Word16 := d.extractLsb' 16 16

/-- Bits 15:0 of the descriptor (R90). -/
def fieldB (d : Descriptor) : Word16 := d.extractLsb' 0 16

/-- The opcode numbers of R100. -/
def opcodeByte : Opcode → BitVec 8
  | .clear => 0x01
  | .setMethod => 0x02
  | .setClass => 0x03
  | .setTid => 0x04
  | .setFpEn => 0x05
  | .setMiEn => 0x06
  | .setPassword => 0x07
  | .getStatus => 0x08
  | .setAttrRequestedTransport => 0x10
  | .setAttrLifetime => 0x11
  | .setAttrUsername => 0x12
  | .setAttrRealm => 0x13
  | .setAttrNonce => 0x14
  | .addAttr => 0x15
  | .serialize => 0x20

/-- The opcode a byte selects; every other byte is reserved and illegal (R95 test 1). -/
def opcodeOfByte (b : BitVec 8) : Option Opcode :=
  if b = 0x01 then some .clear
  else if b = 0x02 then some .setMethod
  else if b = 0x03 then some .setClass
  else if b = 0x04 then some .setTid
  else if b = 0x05 then some .setFpEn
  else if b = 0x06 then some .setMiEn
  else if b = 0x07 then some .setPassword
  else if b = 0x08 then some .getStatus
  else if b = 0x10 then some .setAttrRequestedTransport
  else if b = 0x11 then some .setAttrLifetime
  else if b = 0x12 then some .setAttrUsername
  else if b = 0x13 then some .setAttrRealm
  else if b = 0x14 then some .setAttrNonce
  else if b = 0x15 then some .addAttr
  else if b = 0x20 then some .serialize
  else none

/-- The decoder: the five tests of R95 in their order, then the operand assembly of R94. -/
def decode (d : Descriptor) (p : Bytes) : Except Illegal Instr :=
  match opcodeOfByte (fieldOpc d) with
  | none => .error .opcode
  | some o =>
    if fieldRsv d ≠ 0 then .error .reserved
    else if immediateLegal o (fieldA d) = false then .error .immediate
    else if lengthLegal o (fieldB d) = false then .error .length
    else if p.length ≠ (fieldB d).toNat then .error .payload
    else .ok (assemble o (fieldA d) p)

/-- The descriptor with the given opcode, `RSV` = 0, immediate and payload length (R90). -/
def makeDescriptor (o : Opcode) (a b : Word16) : Descriptor :=
  opcodeByte o ++ (0 : BitVec 24) ++ a ++ b

/-- The encoder: the descriptor and the payload that spell a command (R90, R93, R94). -/
def encode (i : Instr) : Descriptor × Bytes :=
  (makeDescriptor (opcodeOf i) (immediateOf i) (BitVec.ofNat 16 (payloadOf i).length), payloadOf i)

/-- One row of the table of R100: a descriptor `d` selects it when `d & mask = value`. -/
structure TableRow where
  opcode : Opcode
  value  : Descriptor
  mask   : Descriptor
  deriving DecidableEq, Repr

/-- Does the descriptor select the row? (R100.) -/
def rowSelects (r : TableRow) (d : Descriptor) : Bool :=
  d &&& r.mask == r.value

/-- The fifteen rows of R100, with the match and mask words of spec/opcode_table.json. -/
def opcodeTable : List TableRow :=
  [⟨.clear, 0x0100000000000000, 0xFFFFFFFFFFFFFFFF⟩,
   ⟨.setMethod, 0x0200000000000000, 0xFFFFFFFFF000FFFF⟩,
   ⟨.setClass, 0x0300000000000000, 0xFFFFFFFFFFFCFFFF⟩,
   ⟨.setTid, 0x040000000000000C, 0xFFFFFFFFFFFFFFFF⟩,
   ⟨.setFpEn, 0x0500000000000000, 0xFFFFFFFFFFFEFFFF⟩,
   ⟨.setMiEn, 0x0600000000000000, 0xFFFFFFFFFFFEFFFF⟩,
   ⟨.setPassword, 0x0700000000000000, 0xFFFFFFFFFFFF0000⟩,
   ⟨.getStatus, 0x0800000000000000, 0xFFFFFFFFFFFFFFFF⟩]
  ++
  [⟨.setAttrRequestedTransport, 0x1000000000000000, 0xFFFFFFFFFFFFFFFF⟩,
   ⟨.setAttrLifetime, 0x1100000000000004, 0xFFFFFFFFFFFFFFFF⟩,
   ⟨.setAttrUsername, 0x1200000000000000, 0xFFFFFFFFFFFF0000⟩,
   ⟨.setAttrRealm, 0x1300000000000000, 0xFFFFFFFFFFFF0000⟩,
   ⟨.setAttrNonce, 0x1400000000000000, 0xFFFFFFFFFFFF0000⟩,
   ⟨.addAttr, 0x1500000000000000, 0xFFFFFFFF00000000⟩,
   ⟨.serialize, 0x2000000000000000, 0xFFFFFFFFFFFFFFFF⟩]

/-- `n` payload bytes read from the bits of `w` above the descriptor: the first payload byte is bits 71:64 of
the whole number, the next one bits 79:72, and so on (the numbering of spec/opcode_table.json: a later word's
bits count on from the first word's). -/
def payloadOfBits : Nat → Nat → Bytes
  | 0, _ => []
  | n + 1, w => BitVec.ofNat 8 w :: payloadOfBits n (w / 256)

/-- The command (descriptor and payload) whose first `nbits` bits are `w` and whose other bits are zero. The
descriptor is the first word, 64 bits; its field `B` says how many payload bytes follow (R91). -/
def commandOfWord (nbits w : Nat) : Descriptor × Bytes :=
  let v := w % 2 ^ nbits
  let d : Descriptor := BitVec.ofNat 64 v
  (d, payloadOfBits (fieldB d).toNat (v / 2 ^ 64))

/-- The instruction the decoder reads from the command whose bits are `w`. -/
def decodeTableWord (nbits w : Nat) : Option Instr :=
  match decode (commandOfWord nbits w).1 (commandOfWord nbits w).2 with
  | .ok i => some i
  | .error _ => none

end Sys2Proof
end

