-- ==== Sys2Proof/Machine/Codes.lean ====
section
/-!
DEFINITION. The code tables of spec/30_encoding.md R107 (attribute types), R108 (methods) and R109 (classes), the
constants of spec/00_scope.md R6, and the error kinds with their numbers (spec/60_exceptions.md R271).
-/

namespace Sys2Proof.Machine

/-- The attribute type codes of R107. The block treats all alike but the two protected ones. -/
def attrUsername : Word16 := 0x0006
def attrMessageIntegrity : Word16 := 0x0008
def attrErrorCode : Word16 := 0x0009
def attrChannelNumber : Word16 := 0x000C
def attrLifetime : Word16 := 0x000D
def attrXorPeerAddress : Word16 := 0x0012
def attrData : Word16 := 0x0013
def attrRealm : Word16 := 0x0014
def attrNonce : Word16 := 0x0015
def attrXorRelayedAddress : Word16 := 0x0016
def attrEvenPort : Word16 := 0x0018
def attrRequestedTransport : Word16 := 0x0019
def attrDontFragment : Word16 := 0x001A
def attrXorMappedAddress : Word16 := 0x0020
def attrReservationToken : Word16 := 0x0022
def attrSoftware : Word16 := 0x8022
def attrFingerprint : Word16 := 0x8028

/-- The method codes of R108. -/
def methodAllocate : Method := 0x003
def methodRefresh : Method := 0x004
def methodSend : Method := 0x006
def methodData : Method := 0x007
def methodCreatePermission : Method := 0x008
def methodChannelBind : Method := 0x009

/-- The class codes of R109. -/
def classRequest : MsgClass := 0
def classIndication : MsgClass := 1
def classSuccessResponse : MsgClass := 2
def classErrorResponse : MsgClass := 3

/-- The magic cookie (R6). -/
def magicCookie : Word32 := 0x2112A442

/-- The constant the CRC is XORed with, the bytes `53 54 55 4E` (R6, R240). It is not the magic cookie. -/
def fingerprintXor : Word32 := 0x5354554E

/-- The value of REQUESTED-TRANSPORT: UDP (17) and three reserved zero bytes (R168, U9). -/
def requestedTransportUdp : Bytes := [0x11, 0x00, 0x00, 0x00]

/-- Is the type one of the two the block alone may write? (R167.) -/
def isProtected (t : Word16) : Bool :=
  t == attrMessageIntegrity || t == attrFingerprint

/-- The error kinds of R271. The five of the parser are names only: nothing raises them (R272). -/
inductive ErrorKind where
  | policyViolation
  | credentialFormatError
  | fingerprintMismatch
  | integrityMismatch
  | malformedHeader
  | malformedAttribute
  | bufferTooShort
  | illegalCommand
  | notConfigured
  | capacityExceeded
  deriving DecidableEq, Repr

/-- The result code of an error kind (R271). -/
def errorCode : ErrorKind → BitVec 8
  | .policyViolation => 0x01
  | .credentialFormatError => 0x02
  | .fingerprintMismatch => 0x03
  | .integrityMismatch => 0x04
  | .malformedHeader => 0x05
  | .malformedAttribute => 0x06
  | .bufferTooShort => 0x07
  | .illegalCommand => 0x10
  | .notConfigured => 0x11
  | .capacityExceeded => 0x12

/-- The result code of success (R271). -/
def resultOk : BitVec 8 := 0x00

end Sys2Proof.Machine
end

