-- ==== Sys2Proof/Config.lean ====
section
/-!
DEFINITION. What the spec leaves to the implementation (spec/92_eei_decisions.md, 'Open parameters, gathered') and
the free values of the model. Every value of this hardware is an `opaque` constant with no body: nothing in Lean can
evaluate it, so a theorem about the machine holds whatever it is.
-/

namespace Sys2Proof

/-- The two buffer capacities of R7. The constraints of R7 are built into the field types, so that capacities
outside them cannot be written down (spec/93_implementation_defined.md U4: refuse to instantiate):
`BODY_MAX` is four times `bodyWords`, hence a multiple of 4 and at most 4 * 16375 = 65500; `CRED_MAX` is at most 65535. -/
structure Capacities where
  bodyWords : Fin 16376
  credWidth : Fin 65536
  deriving DecidableEq, Repr

/-- The three primitive functions, `md5(bytes) -> 16 bytes`, `hmacSha1(key, bytes) -> 20 bytes` and
`crc32(bytes) -> 32-bit number` (R8, R39, D19). They are arguments of the model: no rule looks inside them. -/
structure Primitives where
  md5      : Bytes → Vector Byte 16
  hmacSha1 : Bytes → Bytes → Vector Byte 20
  crc32    : Bytes → Word32

namespace Config

/-- `BODY_MAX / 4` of this hardware: OPEN (R7). Log entry 1. -/
opaque bodyWords : Fin 16376

/-- `CRED_MAX` of this hardware: OPEN (R7). Log entry 1. -/
opaque credWidth : Fin 65536

/-- The `md5` of this hardware: OPEN (R8, R12, D19). Log entry 2. -/
opaque md5 : Bytes → Vector Byte 16

/-- The `hmacSha1` of this hardware: OPEN (R8, R12, D19). Log entry 2. -/
opaque hmacSha1 : Bytes → Bytes → Vector Byte 20

/-- The `crc32` of this hardware, as a 32-bit number: OPEN (R8, R12, D19, R241). Log entry 2. -/
opaque crc32 : Bytes → Word32

/-- Free value: what `FPWD` holds after the n-th `SERIALIZE` has ended (R37, U2). Log entry 3. -/
opaque freeFpwd : Nat → Bytes

/-- Free value: what `KEY` holds after the n-th `SERIALIZE` has ended (R37, U2). Log entry 3. -/
opaque freeKey : Nat → Bytes

/-- Free value: what `DIGEST` holds after the n-th `SERIALIZE` has ended (R37, U2). Log entry 3. -/
opaque freeDigest : Nat → Vector Byte 20

/-- Free value: what `CRCV` holds after the n-th `SERIALIZE` has ended (R37, U2). Log entry 3. -/
opaque freeCrcv : Nat → Word32

end Config

end Sys2Proof
end

