-- ==== Sys2Proof/Machine/Platform.lean ====
section
/-!
DEFINITION. This hardware's open parameters gathered (spec/00_scope.md R7, R8; spec/92_eei_decisions.md D8, D19),
and the sizes that follow from the capacities.
-/

namespace Sys2Proof.Machine

/-- The capacities of this hardware: OPEN, the constants of Config. -/
def platformCapacities : Capacities :=
  ⟨Config.bodyWords, Config.credWidth⟩

/-- The primitive functions of this hardware: OPEN, the constants of Config. -/
def platformPrimitives : Primitives :=
  ⟨Config.md5, Config.hmacSha1, Config.crc32⟩

/-- `BODY_MAX`: the largest allowed `body(ATTR)` (R7). -/
def bodyMax (c : Capacities) : Nat := 4 * c.bodyWords.val

/-- `CRED_MAX`: the capacity of each credential buffer (R7). -/
def credMax (c : Capacities) : Nat := c.credWidth.val

/-- `OBUF_BYTES` = 20 + `BODY_MAX` + 32 (R7, R35). -/
def obufBytes (c : Capacities) : Nat := 20 + bodyMax c + 32

end Sys2Proof.Machine
end

