-- ==== Sys2Proof/Machine/State.lean ====
section
/-!
DEFINITION. The state of one block instance as plain data (spec/10_state.md R20, R40), beside it the model's own
fields (the host at the block's ports, the capacities, a counter of draws), the state after reset, and the reasons a
step can stop.
-/

namespace Sys2Proof.Machine

/-- The sequencer state `PHASE` (R36). -/
inductive Phase where
  | idle
  | key
  | hdr
  | attrs
  | mi
  | fp
  | finish
  deriving DecidableEq, Repr

/-- One entry of the attribute store: a type code and a value (R32). -/
structure Attribute where
  code  : Word16
  value : Bytes
  deriving DecidableEq, Repr

/-- What the host does at the block's ports (R13, R79, R90, R301). -/
inductive PortEvent where
  /-- It presents a command: a descriptor and a payload (R90, R93). -/
  | command (descriptor : Descriptor) (payload : Bytes)
  /-- It reads byte `i` of the output through the output read port (R79). -/
  | readOut (i : Offset)
  /-- The `Reset` event (R300, R301). -/
  | reset
  deriving DecidableEq, Repr

/-- What the block's ports carry back to the host after a step (R79, R92, R301). -/
inductive PortOut where
  /-- Nothing: no step has answered since reset. -/
  | nothing
  /-- The response word of a command (R92). -/
  | response (w : Word32)
  /-- A byte read through the output read port (R79). -/
  | data (b : Byte)
  deriving DecidableEq, Repr

/-- The state. The fields down to `crcv` are the elements of R20; the last four are the model's own. -/
structure State where
  /-- `METHOD` (R21). -/
  method : Method
  /-- `CLASS` (R22). -/
  cls : MsgClass
  /-- `TID0`, the transaction-id word written first on the wire (R23). -/
  tid0 : Word32
  /-- `TID1` (R23). -/
  tid1 : Word32
  /-- `TID2` (R23). -/
  tid2 : Word32
  /-- `V_METHOD` (R24). -/
  vMethod : Bool
  /-- `V_CLASS` (R24). -/
  vClass : Bool
  /-- `V_TID` (R24). -/
  vTid : Bool
  /-- `FP_EN` (R26). -/
  fpEn : Bool
  /-- `MI_EN` (R26). -/
  miEn : Bool
  /-- `OUT_VALID` (R30). -/
  outValid : Bool
  /-- `ATTR`, in insertion order (R32). -/
  attr : List Attribute
  /-- `USERNAME`, the credential buffer (R34). -/
  username : Bytes
  /-- `REALM`, the credential buffer (R34). -/
  realm : Bytes
  /-- `PASSWORD`, the credential buffer (R34). -/
  password : Bytes
  /-- `OBUF` (R35): the bytes that have a specified value, by rising offset; an offset that is not listed has
  no specified value (U1), and reading it faults. Log entry 4. -/
  obuf : List Host.Cell
  /-- `OLEN` (R30). -/
  olen : Offset
  /-- `WP`, the write pointer of `SERIALIZE` (R35). -/
  wp : Offset
  /-- `PHASE` (R36). -/
  phase : Phase
  /-- `RESULT` (R28). -/
  result : BitVec 8
  /-- `INFO` (R29). -/
  info : Word16
  /-- `FPWD`, the filtered password (R37). -/
  fpwd : Bytes
  /-- `KEY`, the HMAC key (R37). -/
  key : Bytes
  /-- `DIGEST`, the HMAC output (R37). -/
  digest : Vector Byte 20
  /-- `CRCV`, the CRC (R37). -/
  crcv : Word32
  /-- The model's own: the capacities `BODY_MAX` and `CRED_MAX` of the instance (R7). No step changes them. Log entry 1. -/
  caps : Capacities
  /-- The model's own: what the host does at the ports next, first event first. Log entry 5. -/
  port : List PortEvent
  /-- The model's own: what the ports carried back last. Log entry 6. -/
  portOut : PortOut
  /-- The model's own: how many draws of free values there have been. Log entry 3. -/
  draws : Nat
  deriving DecidableEq, Repr

/-- The machine right after reset: the table of R40. The bytes of `OBUF` are unspecified: nothing is listed.
The model's own fields: the capacities of this hardware, no event at the ports, no answer, no draw. -/
def State.reset : State where
  method := 0
  cls := 0
  tid0 := 0
  tid1 := 0
  tid2 := 0
  vMethod := false
  vClass := false
  vTid := false
  fpEn := false
  miEn := false
  outValid := false
  attr := []
  username := []
  realm := []
  password := []
  obuf := []
  olen := 0
  wp := 0
  phase := .idle
  result := 0x00
  info := 0x0000
  fpwd := []
  key := []
  digest := Vector.replicate 20 0
  crcv := 0
  caps := platformCapacities
  port := []
  portOut := .nothing
  draws := 0

/-- Why the machine stops with a fault. No command faults in a state that keeps R32 (d) (R212, R69). -/
inductive Fault where
  /-- Raised by the writes of `SERIALIZE` to an offset at or above `OBUF_BYTES`, which does not exist (R60, R67).
  Only a state that breaks R32 (d) gets here (R212). Safe: the model stops. -/
  | obufOutOfBounds
  /-- Raised by the reads of `SERIALIZE` of an offset of `OBUF` that has no specified value (R35, U1). No run gets
  here (R69). Safe: the model stops. -/
  | obufUnspecified
  deriving DecidableEq, Repr

/-- Why the model gives a situation no step (R284 c). -/
inductive Refusal where
  /-- Raised by `exec` for an instruction without a meaning; no arm is left that does. Safe: the model stops. -/
  | notModelled (mnemonic : String)
  /-- Raised by the command port for a command presented while `PHASE` is not `IDLE`, which has no defined meaning
  (R306, U3). Safe: the model stops. -/
  | commandWhileBusy
  /-- Raised by the output read port for a read outside the valid output, whose value is unspecified (R79, U1).
  Safe: the model stops. -/
  | readOutUnspecified
  deriving DecidableEq, Repr

end Sys2Proof.Machine
end

