-- ==== Sys2Proof/Machine/Flags.lean ====
section
/-!
DEFINITION. The words assembled from flag bits: `STATUS` (spec/10_state.md R27), the mask of missing registers
(R29, spec/42_serialize.md R201) and the response word (spec/30_encoding.md R92).
-/

namespace Sys2Proof.Machine

/-- `HAS_USERNAME`: the credential username is not empty (R27 bit 6). -/
def hasUsername (s : State) : Bool :=
  decide (0 < s.username.length)

/-- The `STATUS` word: bit 0 `V_METHOD`, 1 `V_CLASS`, 2 `V_TID`, 3 `FP_EN`, 4 `MI_EN`, 5 `OUT_VALID`,
6 `HAS_USERNAME`, 15:7 zero (R27). -/
def statusWord (s : State) : Word16 :=
  (0 : BitVec 9) ++ BitVec.ofBool (hasUsername s) ++ BitVec.ofBool s.outValid ++ BitVec.ofBool s.miEn
    ++ BitVec.ofBool s.fpEn ++ BitVec.ofBool s.vTid ++ BitVec.ofBool s.vClass ++ BitVec.ofBool s.vMethod

/-- The mask of the registers that have not been written: bit 0 `METHOD`, 1 `CLASS`, 2 the transaction id (R29, R199). -/
def missingMask (s : State) : Word16 :=
  (0 : BitVec 13) ++ BitVec.ofBool (!s.vTid) ++ BitVec.ofBool (!s.vClass) ++ BitVec.ofBool (!s.vMethod)

/-- The response word: bits 31:24 `RESULT`, 23:16 zero, 15:0 `INFO` (R92). -/
def responseWord (result : BitVec 8) (info : Word16) : Word32 :=
  result ++ (0 : BitVec 8) ++ info

end Sys2Proof.Machine
end

