-- ==== Sys2Proof/Machine/Ops.lean ====
section
/-!
DEFINITION. The named operations over the state: how a command ends (spec/00_scope.md R11, spec/60_exceptions.md R275),
the output buffer and its access primitives (spec/20_memory.md R67 to R69, R79), the attribute store
(spec/10_state.md R33, spec/41_attribute_commands.md R160), reset (spec/70_reset_and_hazards.md R300).
-/

namespace Sys2Proof.Machine

/-! ### How a command ends -/

/-- `done(info)`: the command ends with `RESULT` = 0x00 and `INFO` = `info`; the response word is produced (R11, R92). -/
def reportOk (info : Word16) (s : State) : State :=
  { s with
    result := resultOk
    info := info
    portOut := .response (responseWord resultOk info) }

/-- `raise Kind(info)`, the block's one way of taking an error: `RESULT`, `INFO` and `PHASE` are written, the response
word is produced, and nothing else changes (R275). There is no handler and no return from one: the next command
is simply accepted (R279). -/
def raiseError (k : ErrorKind) (info : Word16) (s : State) : State :=
  { s with
    result := errorCode k
    info := info
    phase := .idle
    portOut := .response (responseWord (errorCode k) info) }

/-! ### Reset -/

/-- Every element of R20 at its reset value (R40). What is not the block's stays: the capacities, the host's events and
the counter of draws. `Reset` and `CLEAR` share it (R302). -/
def wipe (s : State) : State :=
  { State.reset with
    caps := s.caps
    port := s.port
    draws := s.draws }

/-! ### The output buffer -/

/-- The byte at an offset, if it has a specified value (R35, R79). -/
def obufRead : List Host.Cell → Nat → Option Byte
  | [], _ => none
  | (a, b) :: m, i => if i = a then some b else if i < a then none else obufRead m i

/-- Write one byte, keeping the offsets strictly rising. -/
def obufWrite : List Host.Cell → Nat → Byte → List Host.Cell
  | [], i, v => [(i, v)]
  | (a, b) :: m, i, v =>
    if i = a then (i, v) :: m
    else if i < a then (i, v) :: (a, b) :: m
    else (a, b) :: obufWrite m i v

/-- Write a byte string, its first byte at offset `i` (R64, R68). -/
def obufWriteBytes (m : List Host.Cell) (i : Nat) : Bytes → List Host.Cell
  | [] => m
  | b :: bs => obufWriteBytes (obufWrite m i b) (i + 1) bs

/-- The `n` bytes from offset `i` on, if all of them have a specified value (R69). -/
def obufReadBytes (m : List Host.Cell) (i : Nat) : Nat → Option Bytes
  | 0 => some []
  | n + 1 =>
    match obufRead m i, obufReadBytes m (i + 1) n with
    | some b, some bs => some (b :: bs)
    | _, _ => none

/-- The buffer that holds exactly the given bytes from offset `i` on. -/
def obufOfBytes (i : Nat) : Bytes → List Host.Cell
  | [] => []
  | b :: bs => (i, b) :: obufOfBytes (i + 1) bs

/-- The canonical form: the offsets rise strictly from at least `i` and stay below `n`. An offset that is not
listed has no specified value, so no entry can equal what an unlisted offset reads as. -/
def obufWfFrom (i n : Nat) : List Host.Cell → Bool
  | [] => true
  | (a, _) :: m => decide (i ≤ a) && decide (a < n) && obufWfFrom (a + 1) n m

/-- `OBUF` is in canonical form and lists only offsets below `OBUF_BYTES` (R35). -/
def Memory.wf (s : State) : Bool :=
  obufWfFrom 0 (obufBytes s.caps) s.obuf

/-- `MemWriteBytes(a, s)` (R68). Its precondition is that the last byte lies below `OBUF_BYTES`; a write beyond has no
place to go and faults. -/
def memWriteBytes (a : Nat) (bs : Bytes) (s : State) : Except Fault State :=
  if a + bs.length ≤ obufBytes s.caps then
    .ok { s with obuf := obufWriteBytes s.obuf a bs }
  else .error .obufOutOfBounds

/-- `MemWrite(a, 2, v)`: two bytes, big-endian (R67). -/
def memWrite16 (a : Nat) (v : Word16) (s : State) : Except Fault State :=
  memWriteBytes a (be16 v) s

/-- `MemWrite(a, 4, v)`: four bytes, big-endian (R67). -/
def memWrite32 (a : Nat) (v : Word32) (s : State) : Except Fault State :=
  memWriteBytes a (be32 v) s

/-- `MemZero(a, k)`: `k` zero bytes (R68). -/
def memZero (a k : Nat) (s : State) : Except Fault State :=
  memWriteBytes a (List.replicate k 0) s

/-- `MemRead(a, n)` (R69). A byte without a specified value faults. -/
def memRead (a n : Nat) (s : State) : Except Fault Bytes :=
  match obufReadBytes s.obuf a n with
  | some bs => .ok bs
  | none => .error .obufUnspecified

/-- `OutRead(i)`, defined for `i < OLEN` when `OUT_VALID` = 1 and no command is executing (R79). -/
def outRead (i : Offset) (s : State) : Option Byte :=
  if s.outValid = true ∧ s.phase = .idle ∧ i < s.olen then obufRead s.obuf i.toNat else none

/-! ### The attribute store -/

/-- `padding(n) = (4 - n % 4) % 4` (R33, R195). -/
def padding (n : Nat) : Nat := (4 - n % 4) % 4

/-- `attrsize(value) = 4 + len(value) + padding(len(value))` (R33). -/
def attrsize (v : Bytes) : Nat := 4 + v.length + padding v.length

/-- `body(ATTR)`: the sum of `attrsize` over the entries (R33). -/
def bodySize : List Attribute → Nat
  | [] => 0
  | a :: l => attrsize a.value + bodySize l

/-- Does some entry have the type? (R160.) -/
def hasType (t : Word16) (l : List Attribute) : Bool :=
  l.any fun a => a.code == t

/-- What `insert` answers (R160). -/
inductive Insertion where
  /-- The type is present: the store is unchanged, and this is no error (R161). -/
  | ignored
  /-- The new entry does not fit: the store is unchanged (R163). -/
  | full
  /-- The store with the new last entry (R162). -/
  | inserted (l : List Attribute)
  deriving DecidableEq, Repr

/-- `insert(t, v)`: first-wins, then capacity, then at the end of the list (R160 to R163). -/
def storeInsert (c : Capacities) (t : Word16) (v : Bytes) (l : List Attribute) : Insertion :=
  if hasType t l = true then .ignored
  else if bodyMax c < bodySize l + attrsize v then .full
  else .inserted (l ++ [⟨t, v⟩])

/-- The shared end of the attribute commands: insert, then success or `CapacityExceeded` (R160, R166 to R172). -/
def insertAttribute (t : Word16) (v : Bytes) (s : State) : State :=
  match storeInsert s.caps t v s.attr with
  | .ignored => reportOk 0 s
  | .inserted l => reportOk 0 { s with attr := l }
  | .full => raiseError .capacityExceeded 0 s

/-- The attribute half of `SET_ATTR_USERNAME` and `SET_ATTR_REALM`: the credential must fit its buffer, and the
attribute, unless its type is already present, the store; `none` when one does not (R170, R171, R278). -/
def insertCredential (t : Word16) (p : Bytes) (s : State) : Option State :=
  if credMax s.caps < p.length then none
  else
    match storeInsert s.caps t p s.attr with
    | .ignored => some s
    | .inserted l => some { s with attr := l }
    | .full => none

end Sys2Proof.Machine
end

