-- ==== Sys2Proof/Machine/Attributes.lean ====
section
/-!
DEFINITION. The attribute commands (spec/41_attribute_commands.md R166 to R172). Each ends in a next state: success,
`PolicyViolation` or `CapacityExceeded`, tested in the order of spec/60_exceptions.md R278.
-/

namespace Sys2Proof.Machine

/-- `SET_ATTR_REQUESTED_TRANSPORT` (R168). -/
def execSetAttrRequestedTransport (s : State) : Host.Outcome State Fault Refusal :=
  .next (insertAttribute attrRequestedTransport requestedTransportUdp s)

/-- `SET_ATTR_LIFETIME n` (R169): the value is `be32(n)`. -/
def execSetAttrLifetime (n : Word32) (s : State) : Host.Outcome State Fault Refusal :=
  .next (insertAttribute attrLifetime (be32 n) s)

/-- `SET_ATTR_USERNAME bytes` (R170): the credential buffer is overwritten, the attribute inserted first-wins. -/
def execSetAttrUsername (p : Bytes) (s : State) : Host.Outcome State Fault Refusal :=
  .next (match insertCredential attrUsername p s with
    | none => raiseError .capacityExceeded 0 s
    | some s' => reportOk 0 { s' with username := p })

/-- `SET_ATTR_REALM bytes` (R171): the credential buffer is overwritten, the attribute inserted first-wins. -/
def execSetAttrRealm (p : Bytes) (s : State) : Host.Outcome State Fault Refusal :=
  .next (match insertCredential attrRealm p s with
    | none => raiseError .capacityExceeded 0 s
    | some s' => reportOk 0 { s' with realm := p })

/-- `SET_ATTR_NONCE bytes` (R172). -/
def execSetAttrNonce (p : Bytes) (s : State) : Host.Outcome State Fault Refusal :=
  .next (insertAttribute attrNonce p s)

/-- `ADD_ATTR t, bytes` (R166): the protected types are refused first (R167). -/
def execAddAttr (t : Word16) (v : Bytes) (s : State) : Host.Outcome State Fault Refusal :=
  .next (if isProtected t = true then raiseError .policyViolation t s else insertAttribute t v s)

end Sys2Proof.Machine
end

