-- ==== Sys2Proof/Machine/Control.lean ====
section
/-!
DEFINITION. The control and field commands (spec/40_control_commands.md R131 to R137, R139). Each ends in a next
state: success or, for `SET_PASSWORD`, also `CapacityExceeded`.
-/

namespace Sys2Proof.Machine

/-- `CLEAR` (R131): reset, then report success (R302). -/
def execClear (s : State) : Host.Outcome State Fault Refusal :=
  .next (reportOk 0 (wipe s))

/-- `SET_METHOD M` (R132). -/
def execSetMethod (m : Method) (s : State) : Host.Outcome State Fault Refusal :=
  .next (reportOk 0 { s with method := m, vMethod := true })

/-- `SET_CLASS C` (R133). -/
def execSetClass (c : MsgClass) (s : State) : Host.Outcome State Fault Refusal :=
  .next (reportOk 0 { s with cls := c, vClass := true })

/-- `SET_TID w0, w1, w2` (R134). -/
def execSetTid (w0 w1 w2 : Word32) (s : State) : Host.Outcome State Fault Refusal :=
  .next (reportOk 0 { s with tid0 := w0, tid1 := w1, tid2 := w2, vTid := true })

/-- `SET_FP_EN f` (R135). -/
def execSetFpEn (f : Bool) (s : State) : Host.Outcome State Fault Refusal :=
  .next (reportOk 0 { s with fpEn := f })

/-- `SET_MI_EN f` (R136). -/
def execSetMiEn (f : Bool) (s : State) : Host.Outcome State Fault Refusal :=
  .next (reportOk 0 { s with miEn := f })

/-- `SET_PASSWORD bytes` (R137). The bytes are stored as given: the filter runs at `SERIALIZE`. -/
def execSetPassword (p : Bytes) (s : State) : Host.Outcome State Fault Refusal :=
  .next (if credMax s.caps < p.length then raiseError .capacityExceeded 0 s
    else reportOk 0 { s with password := p })

/-- `GET_STATUS` (R139). -/
def execGetStatus (s : State) : Host.Outcome State Fault Refusal :=
  .next (reportOk (statusWord s) s)

end Sys2Proof.Machine
end

