-- ==== Sys2Proof/Machine/Codec.lean ====
section
/-!
DEFINITION. The Wire Codec half of `SERIALIZE`: message-type packing, the header, the attribute frame
(spec/42_serialize.md R191, R194, R203, R204; spec/30_encoding.md R103 to R105).
-/

namespace Sys2Proof.Machine

/-- `pack(M, C)`, the algorithm of R191: five groups of bits are shifted in from the top. -/
def packType (m : Method) (c : MsgClass) : Word16 :=
  let m : Word16 := m.zeroExtend 16
  let c : Word16 := c.zeroExtend 16
  let t : Word16 := 0
  let t := (t <<< 5) ||| ((m >>> 7) &&& 0x1F)
  let t := (t <<< 1) ||| ((c >>> 1) &&& 0x01)
  let t := (t <<< 3) ||| ((m >>> 4) &&& 0x07)
  let t := (t <<< 1) ||| (c &&& 0x01)
  (t <<< 4) ||| (m &&& 0x0F)

/-- `write_header` (R203). The length written here is `L0` = `body(ATTR)` (R197). -/
def writeHeader (s : State) : Except Fault State := do
  let s ← memWrite16 0 (packType s.method s.cls) s
  let s ← memWrite16 2 (BitVec.ofNat 16 (bodySize s.attr)) s
  let s ← memWrite32 4 magicCookie s
  let s ← memWrite32 8 s.tid0 s
  let s ← memWrite32 12 s.tid1 s
  let s ← memWrite32 16 s.tid2 s
  return { s with wp := 20 }

/-- `emit_attr(t, v)` (R194): type, unpadded length, value, zero padding, at `WP`. -/
def emitAttr (a : Attribute) (s : State) : Except Fault State := do
  let w := s.wp.toNat
  let n := a.value.length
  let s ← memWrite16 w a.code s
  let s ← memWrite16 (w + 2) (BitVec.ofNat 16 n) s
  let s ← memWriteBytes (w + 4) a.value s
  let s ← memZero (w + 4 + n) (padding n) s
  return { s with wp := BitVec.ofNat 17 (w + attrsize a.value) }

/-- Phase `ATTRS`: the entries from the first inserted to the last (R204). -/
def emitAttrs : List Attribute → State → Except Fault State
  | [], s => .ok s
  | a :: l, s => emitAttr a s >>= emitAttrs l

end Sys2Proof.Machine
end

