-- ==== Sys2Proof/Machine/Trailer.lean ====
section
/-!
DEFINITION. The integrity and fingerprint engine (spec/43_trailer_engine.md R231 to R241): the password filter, key
derivation, and the two trailer attributes. The primitive functions are arguments (spec/00_scope.md R8).
-/

namespace Sys2Proof.Machine

/-- The four byte classes of R231 and R232. -/
inductive ByteClass where
  | drop
  | space
  | fail
  | pass
  deriving DecidableEq, Repr

/-- The class of a password byte: 0xAD is dropped, 0x20 and 0xA0 become a space, 0x7F, every byte below 0x1F
and 0x80 to 0x9F fail, the rest pass (R231). The bound is HC's literal `< 0x1F`: 0x1F passes (R232, U6). -/
def byteClass (b : Byte) : ByteClass :=
  if b = 0xAD then .drop
  else if b = 0x20 ∨ b = 0xA0 then .space
  else if b = 0x7F ∨ b < 0x1F ∨ (0x80 ≤ b ∧ b ≤ 0x9F) then .fail
  else .pass

/-- The filter over the bytes from index `i` on: the filtered bytes, or the index of the first failing byte (R231). -/
def filterFrom (i : Nat) : Bytes → Except Nat Bytes
  | [] => .ok []
  | b :: p =>
    match byteClass b with
    | .drop => filterFrom (i + 1) p
    | .space => (filterFrom (i + 1) p).map fun out => 0x20 :: out
    | .fail => .error i
    | .pass => (filterFrom (i + 1) p).map fun out => b :: out

/-- `filter(p)` (R231). -/
def passwordFilter (p : Bytes) : Except Nat Bytes :=
  filterFrom 0 p

/-- The HMAC key for a filtered password (R233, R234): `md5(USERNAME ":" REALM ":" FPWD)` when the credential username is
not empty, otherwise the filtered password itself. -/
def hmacKey (h : Primitives) (username realm fpwd : Bytes) : Bytes :=
  if 0 < username.length then
    (h.md5 (username ++ [0x3A] ++ realm ++ [0x3A] ++ fpwd)).toList
  else fpwd

/-- `derive_key` (R234): `FPWD` and `KEY` are written, or the index of the password byte the filter rejects. -/
def deriveKey (h : Primitives) (s : State) : Except Nat State :=
  match passwordFilter s.password with
  | .error i => .error i
  | .ok f => .ok { s with fpwd := f, key := hmacKey h s.username s.realm f }

/-- `append_integrity` (R235): the length `L1` that counts this attribute is written before the hash is computed. -/
def appendIntegrity (h : Primitives) (s : State) : Except Fault State := do
  let p := s.wp.toNat
  let s ← memWrite16 2 (BitVec.ofNat 16 ((p - 20) + 24)) s
  let data ← memRead 0 p s
  let s := { s with digest := h.hmacSha1 s.key data }
  let s ← memWrite16 p attrMessageIntegrity s
  let s ← memWrite16 (p + 2) 0x0014 s
  let s ← memWriteBytes (p + 4) s.digest.toList s
  return { s with wp := BitVec.ofNat 17 (p + 24) }

/-- `append_fingerprint` (R238): the length `L2` that counts this attribute is written before the CRC is computed. -/
def appendFingerprint (h : Primitives) (s : State) : Except Fault State := do
  let p := s.wp.toNat
  let s ← memWrite16 2 (BitVec.ofNat 16 ((p - 20) + 8)) s
  let data ← memRead 0 p s
  let s := { s with crcv := h.crc32 data }
  let s ← memWrite16 p attrFingerprint s
  let s ← memWrite16 (p + 2) 0x0004 s
  let s ← memWrite32 (p + 4) (s.crcv ^^^ fingerprintXor) s
  return { s with wp := BitVec.ofNat 17 (p + 8) }

end Sys2Proof.Machine
end

