-- ==== Sys2Proof/Machine/Serialize.lean ====
section
/-!
DEFINITION. The command `SERIALIZE` (spec/42_serialize.md R199 to R207): its phases in order.
-/

namespace Sys2Proof.Machine

/-- The start: `OUT_VALID` and `OLEN` are cleared and the content of `OBUF` becomes unspecified (R200). -/
def startOutput (s : State) : State :=
  { s with outValid := false, olen := 0, obuf := [] }

/-- After a `SERIALIZE` has ended the content of the scratch registers is unspecified (R37, U2): each holds a free value
within its width. Log entry 3. -/
def freeScratch (s : State) : State :=
  { s with
    fpwd := (Config.freeFpwd s.draws).take (credMax s.caps)
    key := (Config.freeKey s.draws).take (max (credMax s.caps) 16)
    digest := Config.freeDigest s.draws
    crcv := Config.freeCrcv s.draws
    draws := s.draws + 1 }

/-- Phase `KEY`, only when `MI_EN` = 1 (R202). -/
def keyPhase (h : Primitives) (s : State) : Except Nat State :=
  if s.miEn = true then deriveKey h { s with phase := .key } else .ok s

/-- Phase `MI`, only when `MI_EN` = 1 (R205). -/
def integrityPhase (h : Primitives) (s : State) : Except Fault State :=
  if s.miEn = true then appendIntegrity h { s with phase := .mi } else .ok s

/-- Phase `FP`, only when `FP_EN` = 1 (R206). -/
def fingerprintPhase (h : Primitives) (s : State) : Except Fault State :=
  if s.fpEn = true then appendFingerprint h { s with phase := .fp } else .ok s

/-- Phase `FINISH` (R207): `OLEN <- WP`, `OUT_VALID <- 1`, and `PHASE` returns to `IDLE`. -/
def finishOutput (s : State) : State :=
  { s with phase := .idle, olen := s.wp, outValid := true }

/-- The phases that write `OBUF`, in order, and the end of the command (R199). -/
def writeMessage (h : Primitives) (s : State) : Except Fault State := do
  let s ← writeHeader { s with phase := .hdr }
  let s ← emitAttrs s.attr { s with phase := .attrs }
  let s ← integrityPhase h s
  let s ← fingerprintPhase h s
  let s := finishOutput { s with phase := .finish }
  return reportOk (BitVec.ofNat 16 (s.wp.toNat - 20)) s

/-- `SERIALIZE` (R199): the start, the configuration check (R201), phase `KEY`, which alone can still fail (R202), and the
phases that write the message. -/
def serialize (h : Primitives) (s : State) : Except Fault State :=
  let s := startOutput s
  if missingMask s ≠ 0 then
    .ok (freeScratch (raiseError .notConfigured (missingMask s) s))
  else
    match keyPhase h s with
    | .error i => .ok (freeScratch (raiseError .credentialFormatError (BitVec.ofNat 16 i) s))
    | .ok s => (writeMessage h s).map freeScratch

/-- `SERIALIZE` of this hardware (R199). -/
def execSerialize (s : State) : Host.Outcome State Fault Refusal :=
  match serialize platformPrimitives s with
  | .ok s' => .next s'
  | .error f => .fault f

end Sys2Proof.Machine
end

