-- ==== Sys2Proof/Machine/Dispatch.lean ====
section
/-!
DEFINITION. One arm per command (spec/30_encoding.md R100).
-/

namespace Sys2Proof.Machine

def exec (i : Instr) (s : State) : Host.Outcome State Fault Refusal :=
  match i with
  | .clear => Sys2Proof.Machine.execClear s
  | .setMethod m => Sys2Proof.Machine.execSetMethod m s
  | .setClass c => Sys2Proof.Machine.execSetClass c s
  | .setTid w0 w1 w2 => Sys2Proof.Machine.execSetTid w0 w1 w2 s
  | .setFpEn f => Sys2Proof.Machine.execSetFpEn f s
  | .setMiEn f => Sys2Proof.Machine.execSetMiEn f s
  | .setPassword p => Sys2Proof.Machine.execSetPassword p s
  | .getStatus => Sys2Proof.Machine.execGetStatus s
  | .setAttrRequestedTransport => Sys2Proof.Machine.execSetAttrRequestedTransport s
  | .setAttrLifetime n => Sys2Proof.Machine.execSetAttrLifetime n s
  | .setAttrUsername p => Sys2Proof.Machine.execSetAttrUsername p s
  | .setAttrRealm p => Sys2Proof.Machine.execSetAttrRealm p s
  | .setAttrNonce p => Sys2Proof.Machine.execSetAttrNonce p s
  | .addAttr t v => Sys2Proof.Machine.execAddAttr t v s
  | .serialize => Sys2Proof.Machine.execSerialize s

end Sys2Proof.Machine
end

