-- ==== Sys2Proof/Machine/Port.lean ====
section
/-!
DEFINITION. The block's ports: the command port with the legality frame (spec/40_control_commands.md R130), the output
read port (spec/20_memory.md R79) and the `Reset` event (spec/70_reset_and_hazards.md R300, R301).
-/

namespace Sys2Proof.Machine

/-- `execute(descriptor, payload)` (R130): an illegal command raises `IllegalCommand` with its opcode byte and changes
nothing else (R95, R276); a legal one runs its rule. A command presented while another is executing has no defined
meaning (R306, U3): the model gives it no step. -/
def acceptCommand (d : Descriptor) (p : Bytes) (s : State) : Host.Outcome State Fault Refusal :=
  if s.phase ≠ .idle then .refused .commandWhileBusy
  else
    match decode d p with
    | .error _ => .next (raiseError .illegalCommand ((fieldOpc d).zeroExtend 16) s)
    | .ok i => exec i s

/-- The host reads the output (R79). Reading changes nothing of the block (R70); the byte appears at the port. A read
outside the valid output has no specified value: the model refuses it (R284 c, U1). -/
def readOutput (i : Offset) (s : State) : Host.Outcome State Fault Refusal :=
  match outRead i s with
  | some b => .next { s with portOut := .data b }
  | none => .refused .readOutUnspecified

/-- One event at the ports. Events are taken in the order they arrive (R77); `Reset` may arrive at any time, produces no
response and leaves the reset state (R301). Without an event the block is idle and waits (R275). -/
def serve (s : State) : Host.Outcome State Fault Refusal :=
  match s.port with
  | [] => .next s
  | .command d p :: rest => acceptCommand d p { s with port := rest }
  | .readOut i :: rest => readOutput i { s with port := rest }
  | .reset :: rest => .next (wipe { s with port := rest })

/-- The state with a command put first at the command port, and the block idle, so that it is accepted next. -/
def presentCommand (d : Descriptor) (p : Bytes) (s : State) : State :=
  { s with phase := .idle, port := .command d p :: s.port }

end Sys2Proof.Machine
end

