-- ==== Sys2Proof/Machine/Step.lean ====
section
/-!
DEFINITION. One step: one event at the block's ports, a command being one atomic step (spec/00_scope.md R13, D1).
-/

namespace Sys2Proof.Machine

/-- One step of the machine: the next event at the ports is served (R13). -/
def step (s : State) : Host.Outcome State Fault Refusal :=
  Sys2Proof.Machine.serve s

/-- `s` with the command whose bits are `w` presented at the command port, where `step` takes its next command. -/
def State.withFetchWord (s : State) (nbits w : Nat) : State :=
  presentCommand (commandOfWord nbits w).1 (commandOfWord nbits w).2 s

end Sys2Proof.Machine
end

