-- ==== Sys2Proof/Safety.lean ====
section
/-!
DEFINITION. The terms claims are stated in: the wire message as one byte string, written from the spec's formulas
(spec/20_memory.md R71, spec/42_serialize.md R197, spec/43_trailer_engine.md R236, R239), what a message needs before it can
be serialized, and what holds of every state a run reaches (spec/10_state.md R32, R30, R36).
-/

namespace Sys2Proof.Machine

/-! ### Responses and operand ranges -/

/-- The state after a response: `RESULT`, `INFO` and the response word of R92, nothing else. -/
def answered (result : BitVec 8) (info : Word16) (s : State) : State :=
  { s with
    result := result
    info := info
    portOut := .response (result ++ (0 : BitVec 8) ++ info) }

/-- The largest immediate of each opcode (R94): 12 bits, 2 bits, 1 bit, 16 bits, or none. -/
def maxImmediate : Opcode → Nat
  | .setMethod => 4095
  | .setClass => 3
  | .setFpEn => 1
  | .setMiEn => 1
  | .addAttr => 65535
  | _ => 0

/-- The payload length of each opcode (R94): `some n` exactly `n` bytes, `none` any number. -/
def payloadLength : Opcode → Option Nat
  | .setTid => some 12
  | .setAttrLifetime => some 4
  | .setPassword => none
  | .setAttrUsername => none
  | .setAttrRealm => none
  | .setAttrNonce => none
  | .addAttr => none
  | _ => some 0

/-- The commands that do not touch the finished output (R30, R307): all but `CLEAR` and `SERIALIZE`. -/
def isBuilder : Instr → Bool
  | .clear => false
  | .serialize => false
  | _ => true

/-! ### The wire message -/

/-- The 20 header bytes with Message Length `l` (R71, R103). -/
def wireHeader (s : State) (l : Nat) : Bytes :=
  be16 (packType s.method s.cls) ++ be16 (BitVec.ofNat 16 l) ++ be32 magicCookie
    ++ be32 s.tid0 ++ be32 s.tid1 ++ be32 s.tid2

/-- One framed attribute: type, unpadded length, value, zero padding (R105). -/
def wireAttribute (a : Attribute) : Bytes :=
  be16 a.code ++ be16 (BitVec.ofNat 16 a.value.length) ++ a.value ++ List.replicate (padding a.value.length) 0

/-- The framed stored attributes, in list order (R204). -/
def wireAttributes (l : List Attribute) : Bytes :=
  l.flatMap wireAttribute

/-- The data the HMAC is computed over: the length inside counts MESSAGE-INTEGRITY and never FINGERPRINT (R236). -/
def integrityData (s : State) : Bytes :=
  wireHeader s (bodySize s.attr + 24) ++ wireAttributes s.attr

/-- The MESSAGE-INTEGRITY attribute (R106, R236). -/
def wireIntegrity (h : Primitives) (key : Bytes) (s : State) : Bytes :=
  be16 attrMessageIntegrity ++ be16 0x0014 ++ (h.hmacSha1 key (integrityData s)).toList

/-- What precedes FINGERPRINT after the header: the stored attributes and MESSAGE-INTEGRITY if enabled (R71). -/
def wireBody (h : Primitives) (key : Bytes) (s : State) : Bytes :=
  wireAttributes s.attr ++ (if s.miEn = true then wireIntegrity h key s else [])

/-- The final Message Length: everything after the header (R71, R208). -/
def finalLength (s : State) : Nat :=
  bodySize s.attr + (if s.miEn = true then 24 else 0) + (if s.fpEn = true then 8 else 0)

/-- The data the CRC is computed over: the length inside is the final one (R239). -/
def fingerprintData (h : Primitives) (key : Bytes) (s : State) : Bytes :=
  wireHeader s (finalLength s) ++ wireBody h key s

/-- The FINGERPRINT attribute (R106, R239, R240). -/
def wireFingerprint (h : Primitives) (key : Bytes) (s : State) : Bytes :=
  be16 attrFingerprint ++ be16 0x0004 ++ be32 (h.crc32 (fingerprintData h key s) ^^^ fingerprintXor)

/-- The serialized message (R71). -/
def wireMessage (h : Primitives) (key : Bytes) (s : State) : Bytes :=
  wireHeader s (finalLength s) ++ wireBody h key s
    ++ (if s.fpEn = true then wireFingerprint h key s else [])

/-! ### Before `SERIALIZE` -/

/-- The method, the class and the transaction id have been written (R303). -/
def Configured (s : State) : Prop :=
  s.vMethod = true ∧ s.vClass = true ∧ s.vTid = true

/-- Integrity is disabled, or the filter accepts the password with the result `f` (R202, R313). -/
def PasswordAccepted (s : State) (f : Bytes) : Prop :=
  s.miEn = true → passwordFilter s.password = .ok f

/-! ### What every run keeps -/

/-- Two states hold the same message: every element `SERIALIZE` reads (R209, R210), under the same capacities. -/
structure SameMessage (s u : State) : Prop where
  method   : s.method = u.method
  cls      : s.cls = u.cls
  tid      : s.tid0 = u.tid0 ∧ s.tid1 = u.tid1 ∧ s.tid2 = u.tid2
  valid    : s.vMethod = u.vMethod ∧ s.vClass = u.vClass ∧ s.vTid = u.vTid
  enables  : s.fpEn = u.fpEn ∧ s.miEn = u.miEn
  attr     : s.attr = u.attr
  username : s.username = u.username
  realm    : s.realm = u.realm
  password : s.password = u.password
  caps     : s.caps = u.caps

/-- The invariants (a) to (d) of the attribute store (R32). -/
structure StoreInv (s : State) : Prop where
  distinct    : (s.attr.map (·.code)).Nodup
  unprotected : ∀ a ∈ s.attr, isProtected a.code = false
  lengths     : ∀ a ∈ s.attr, a.value.length ≤ 65535
  fits        : bodySize s.attr ≤ bodyMax s.caps

/-- Each credential buffer, and each scratch byte string, is within its capacity (R20, R34). -/
structure BuffersInv (s : State) : Prop where
  username : s.username.length ≤ credMax s.caps
  realm    : s.realm.length ≤ credMax s.caps
  password : s.password.length ≤ credMax s.caps
  fpwd     : s.fpwd.length ≤ credMax s.caps
  key      : s.key.length ≤ max (credMax s.caps) 16

/-- `OBUF`, `OLEN` and `OUT_VALID` agree (R30, R35, R65, R196): without a valid output the length is 0 and no byte has a
specified value; with one, `OBUF` holds exactly the bytes below `OLEN`, `OLEN` is a multiple of 4 between 20 and
`OBUF_BYTES`, and bytes 2 and 3 hold `OLEN - 20`. -/
structure OutputInv (s : State) : Prop where
  absent  : s.outValid = false → s.olen = 0 ∧ s.obuf = []
  present : s.outValid = true → ∃ bs : Bytes,
    s.obuf = obufOfBytes 0 bs ∧ s.olen.toNat = bs.length ∧ 20 ≤ bs.length ∧ bs.length ≤ obufBytes s.caps
      ∧ bs.length % 4 = 0 ∧ (bs.drop 2).take 2 = be16 (BitVec.ofNat 16 (bs.length - 20))

/-- The result codes a command can produce (R271, R272). -/
def producedCodes : List (BitVec 8) := [0x00, 0x01, 0x02, 0x10, 0x11, 0x12]

/-- The message registers a host has not written hold their reset content (R24, R40). -/
structure RegistersInv (s : State) : Prop where
  method : s.vMethod = false → s.method = 0
  cls    : s.vClass = false → s.cls = 0
  tid    : s.vTid = false → s.tid0 = 0 ∧ s.tid1 = 0 ∧ s.tid2 = 0

/-- What holds at reset and after every step. -/
structure Inv (s : State) : Prop where
  idle      : s.phase = .idle
  store     : StoreInv s
  buffers   : BuffersInv s
  output    : OutputInv s
  registers : RegistersInv s
  result    : s.result ∈ producedCodes

/-- The bytes of `OBUF` a host may read: all of them, in order (R79). -/
def hostOutput (s : State) : Option Bytes :=
  if s.outValid = true then obufReadBytes s.obuf 0 s.olen.toNat else none

end Sys2Proof.Machine
end

