-- ==== Sys2Proof/Certificates/Slice0/Obligations.lean ====
section
/-!
DEFINITION. The statements for the provers. Each docstring names the rules of spec/ it rests on.
-/

open Sys2Proof Sys2Proof.Machine

/-! ### The command encoding -/

/-- R90, R93, R94, R100: decoding the descriptor and payload the encoder makes of a well-formed command gives the command
back, with every operand at every value. -/
def Obligations.DecodeOfEncodeIsTheCommand : Prop :=
  ∀ i : Instr, i.wellFormed = true → decode (encode i).1 (encode i).2 = .ok i

/-- R90, R94, R100: each legal pair of descriptor and payload has one meaning, and is the encoding of it: no bit is
dropped and none is ignored. -/
def Obligations.EncodeOfDecodeIsTheDescriptor : Prop :=
  ∀ (d : Descriptor) (p : Bytes) (i : Instr), decode d p = .ok i → i.wellFormed = true ∧ encode i = (d, p)

/-- R100: a command is legal exactly when its descriptor selects a row of the table (`d & mask = match`) and the payload
has `B` bytes; the row is that of the decoded command. -/
def Obligations.LegalCommandsAreTheTableRows : Prop :=
  ∀ (d : Descriptor) (p : Bytes),
    ((∃ i, decode d p = .ok i) ↔ p.length = (fieldB d).toNat ∧ ∃ r ∈ opcodeTable, rowSelects r d = true)
    ∧ ∀ i, decode d p = .ok i → ∀ r ∈ opcodeTable, rowSelects r d = true → r.opcode = opcodeOf i

/-- R100: the fifteen rows are disjoint: no descriptor selects two. -/
def Obligations.TableRowsAreDisjoint : Prop :=
  opcodeTable.length = 15
  ∧ opcodeTable.Pairwise fun r q => ∀ d : Descriptor, ¬(rowSelects r d = true ∧ rowSelects q d = true)

/-- R94, R95, R96: the five tests of legality in their order, with the ranges of R94 as numbers: an unknown opcode, a
non-zero reserved field, an immediate above the largest (never truncated), a wrong payload length, a payload that does not
have `B` bytes; otherwise the command is legal. -/
def Obligations.IllegalCommandTestsInOrder : Prop :=
  ∀ (d : Descriptor) (p : Bytes),
    ((∀ o, fieldOpc d ≠ opcodeByte o) → decode d p = .error .opcode)
    ∧ ∀ o, fieldOpc d = opcodeByte o →
        (fieldRsv d ≠ 0 → decode d p = .error .reserved)
        ∧ (fieldRsv d = 0 → maxImmediate o < (fieldA d).toNat → decode d p = .error .immediate)
        ∧ (fieldRsv d = 0 → (fieldA d).toNat ≤ maxImmediate o →
            ((∃ n, payloadLength o = some n ∧ (fieldB d).toNat ≠ n) → decode d p = .error .length)
            ∧ ((∀ n, payloadLength o = some n → (fieldB d).toNat = n) →
                (p.length ≠ (fieldB d).toNat → decode d p = .error .payload)
                ∧ (p.length = (fieldB d).toNat → ∃ i, decode d p = .ok i ∧ opcodeOf i = o)))

/-- These descriptors decode to the commands they stand for: the one each example of R132, R133, R134, R135, R136, R137,
R166, R169, R170, R171 and R172 writes out, with its payload; the match words of R100 for the four commands without
operands; and three more made from the match words of R100 with a short payload, of one byte for `SET_ATTR_USERNAME` and
`SET_ATTR_REALM` (two descriptors of program P6, spec/95_test_vectors.md) and of two bytes for `SET_ATTR_NONCE` (written
out from R90 and R100, no example of the spec). -/
def Obligations.SpecExampleDescriptorsDecode : Prop :=
  decode 0x0100000000000000 [] = .ok .clear
  ∧ decode 0x0200000000030000 [] = .ok (.setMethod 0x003)
  ∧ decode 0x0300000000020000 [] = .ok (.setClass 2)
  ∧ decode 0x040000000000000C [0x27, 0x82, 0xa6, 0x02, 0xfe, 0xfe, 0x80, 0x59, 0xbc, 0x94, 0xc7, 0x12]
      = .ok (.setTid 0x2782A602 0xFEFE8059 0xBC94C712)
  ∧ decode 0x0500000000010000 [] = .ok (.setFpEn true)
  ∧ decode 0x0600000000000000 [] = .ok (.setMiEn false)
  ∧ decode 0x070000000000000A [0x73, 0x6b, 0x6c, 0x64, 0x31, 0x32, 0x33, 0x21, 0x40, 0x23]
      = .ok (.setPassword [0x73, 0x6b, 0x6c, 0x64, 0x31, 0x32, 0x33, 0x21, 0x40, 0x23])
  ∧ decode 0x0800000000000000 [] = .ok .getStatus
  ∧ decode 0x1000000000000000 [] = .ok .setAttrRequestedTransport
  ∧ decode 0x1100000000000004 [0x00, 0x00, 0x0e, 0x10] = .ok (.setAttrLifetime 3600)
  ∧ decode 0x1200000000000008 [0x7a, 0x68, 0x61, 0x6e, 0x67, 0x74, 0x61, 0x6f]
      = .ok (.setAttrUsername [0x7a, 0x68, 0x61, 0x6e, 0x67, 0x74, 0x61, 0x6f])
  ∧ decode 0x1300000000000012 [0x68, 0x65, 0x6c, 0x6c, 0x6f, 0x2e, 0x73, 0x65, 0x65, 0x6b, 0x6c, 0x6f, 0x75, 0x64, 0x2e, 0x6f,
        0x72, 0x67]
      = .ok (.setAttrRealm [0x68, 0x65, 0x6c, 0x6c, 0x6f, 0x2e, 0x73, 0x65, 0x65, 0x6b, 0x6c, 0x6f, 0x75, 0x64, 0x2e, 0x6f,
        0x72, 0x67])
  ∧ decode 0x1400000000000010 [0x30, 0x31, 0x32, 0x33, 0x34, 0x35, 0x36, 0x37, 0x38, 0x39, 0x61, 0x62, 0x63, 0x64, 0x65, 0x66]
      = .ok (.setAttrNonce [0x30, 0x31, 0x32, 0x33, 0x34, 0x35, 0x36, 0x37, 0x38, 0x39, 0x61, 0x62, 0x63, 0x64, 0x65, 0x66])
  ∧ decode 0x1200000000000001 [0x61] = .ok (.setAttrUsername [0x61])
  ∧ decode 0x1300000000000001 [0x72] = .ok (.setAttrRealm [0x72])
  ∧ decode 0x1400000000000002 [0x30, 0x31] = .ok (.setAttrNonce [0x30, 0x31])
  ∧ decode 0x1500000080220003 [0x61, 0x62, 0x63] = .ok (.addAttr 0x8022 [0x61, 0x62, 0x63])
  ∧ decode 0x2000000000000000 [] = .ok .serialize

/-! ### The ports -/

/-- R13, R77, R130: when the block is idle and the next event is a legal command, the step is that command's rule on the
state without the event. The second clause rests on no rule of the spec but on the model's choices (DESIGN CHOICE): that
`withFetchWord` puts a command first at the port and `PHASE` to `IDLE` (log entry 5), and how it numbers a command's bits
(log entry 12); the step then runs the command those bits decode to. -/
def Obligations.StepRunsTheDecodedCommand : Prop :=
  (∀ (s : State) (d : Descriptor) (p : Bytes) (rest : List PortEvent) (i : Instr),
    s.port = .command d p :: rest → s.phase = .idle → decode d p = .ok i → step s = exec i { s with port := rest })
  ∧ ∀ (s : State) (nbits w : Nat) (i : Instr),
    decodeTableWord nbits w = some i → step (s.withFetchWord nbits w) = exec i { s with phase := .idle }

/-- R276, R95, R29: an illegal command raises `IllegalCommand` (0x10) with its opcode byte as `INFO` and changes no state
but `RESULT` and `INFO`, whatever its opcode. -/
def Obligations.IllegalCommandChangesNothing : Prop :=
  ∀ (s : State) (d : Descriptor) (p : Bytes) (rest : List PortEvent) (e : Illegal),
    s.port = .command d p :: rest → s.phase = .idle → decode d p = .error e →
    step s = .next (answered 0x10 ((fieldOpc d).setWidth 16) { s with port := rest })

/-- R306, U3: a command presented while another is executing has no defined meaning; that the model gives it no step, and
under which name, is the model's choice (log entry 8). -/
def Obligations.CommandWhileBusyIsRefused : Prop :=
  ∀ (s : State) (d : Descriptor) (p : Bytes) (rest : List PortEvent),
    s.port = .command d p :: rest → s.phase ≠ .idle → step s = .refused .commandWhileBusy

/-- R301, R300, R40: `Reset` may arrive in every state, also while a command is executing; no response is produced and the
state is the reset state. The capacities, the host's later events and the counter of draws are not the block's (log
entries 1, 3, 5). -/
def Obligations.ResetFromEveryState : Prop :=
  ∀ (s : State) (rest : List PortEvent), s.port = .reset :: rest →
    step s = .next { State.reset with caps := s.caps, port := rest, draws := s.draws }

/-- R40: the reset value of every element of R20; no byte of `OBUF` has a specified value, so none can be read. `CLEAR`
leaves the same values in every element, `RESULT` and `INFO` included (the model's own fields, capacities, port, port
answer and draws, are no elements of R20: nothing is said of them). -/
def Obligations.ResetStateIsTheTable : Prop :=
  State.reset.method = 0 ∧ State.reset.cls = 0
  ∧ State.reset.tid0 = 0 ∧ State.reset.tid1 = 0 ∧ State.reset.tid2 = 0
  ∧ State.reset.vMethod = false ∧ State.reset.vClass = false ∧ State.reset.vTid = false
  ∧ State.reset.fpEn = false ∧ State.reset.miEn = false
  ∧ State.reset.outValid = false ∧ State.reset.olen = 0
  ∧ State.reset.attr = []
  ∧ State.reset.username = [] ∧ State.reset.realm = [] ∧ State.reset.password = []
  ∧ (∀ a, obufRead State.reset.obuf a = none) ∧ (∀ i, outRead i State.reset = none)
  ∧ State.reset.wp = 0 ∧ State.reset.phase = .idle
  ∧ State.reset.result = 0x00 ∧ State.reset.info = 0x0000
  ∧ State.reset.fpwd = [] ∧ State.reset.key = [] ∧ State.reset.digest = Vector.replicate 20 0 ∧ State.reset.crcv = 0
  ∧ ∀ s t : State, exec .clear s = .next t →
      t = { State.reset with caps := t.caps, port := t.port, portOut := t.portOut, draws := t.draws }

/-- R275, R279, D1: without an event at the ports the block is idle and nothing changes (log entry 5). -/
def Obligations.IdleBlockWaits : Prop :=
  ∀ s : State, s.port = [] → step s = .next s

/-- R79, R70, U1: with a valid output whose bytes are `bs` (the output invariant says there are such), the read port gives
byte `i` of it for `i < OLEN` and changes nothing of the block; a read at or above `OLEN`, without a valid output or during
a command has no specified value; that it is refused, and that the byte appears in `portOut`, is the model's choice (log
entry 9). -/
def Obligations.OutputReadPortGivesTheOutput : Prop :=
  ∀ (s : State) (i : Offset) (rest : List PortEvent), s.port = .readOut i :: rest →
    (∀ bs : Bytes, s.outValid = true → s.phase = .idle → s.obuf = obufOfBytes 0 bs → s.olen.toNat = bs.length →
      ∀ h : i.toNat < bs.length,
        step s = .next { s with port := rest, portOut := .data (bs[i.toNat]'h) })
    ∧ (s.outValid = false ∨ s.phase ≠ .idle ∨ s.olen ≤ i → step s = .refused .readOutUnspecified)

/-! ### The control and field commands -/

/-- R131, R302, R40: `CLEAR` completes in every state; every element is at its reset value, the response is success, and
`STATUS` is then 0. Only the one descriptor with zero operands and no payload is `CLEAR`. -/
def Obligations.ClearReturnsToTheResetState : Prop :=
  (∀ s : State, exec .clear s =
    .next (answered 0x00 0 { State.reset with caps := s.caps, port := s.port, draws := s.draws }))
  ∧ (∀ s t : State, exec .clear s = .next t → statusWord t = 0)
  ∧ ∀ (d : Descriptor) (p : Bytes), decode d p = .ok .clear ↔ d = 0x0100000000000000 ∧ p = []

/-- R132, R21: `SET_METHOD` completes in every state, for every 12-bit method: `METHOD` is assigned and `V_METHOD` set,
nothing else changes but the response. Its descriptors are exactly those with the method in bits 27:16. -/
def Obligations.SetMethodAssigns : Prop :=
  (∀ (m : Method) (s : State), exec (.setMethod m) s = .next (answered 0x00 0 { s with method := m, vMethod := true }))
  ∧ ∀ (d : Descriptor) (p : Bytes) (m : Method),
      decode d p = .ok (.setMethod m) ↔ d = (0x02 : BitVec 8) ++ (0 : BitVec 28) ++ m ++ (0 : BitVec 16) ∧ p = []

/-- R133, R22: `SET_CLASS` completes in every state, for all four classes: `CLASS` is assigned and `V_CLASS` set, nothing
else changes but the response. Its descriptors are exactly those with the class in bits 17:16. -/
def Obligations.SetClassAssigns : Prop :=
  (∀ (c : MsgClass) (s : State), exec (.setClass c) s = .next (answered 0x00 0 { s with cls := c, vClass := true }))
  ∧ ∀ (d : Descriptor) (p : Bytes) (c : MsgClass),
      decode d p = .ok (.setClass c) ↔ d = (0x03 : BitVec 8) ++ (0 : BitVec 38) ++ c ++ (0 : BitVec 16) ∧ p = []

/-- R134, R23, R64: `SET_TID` completes in every state, for every 96-bit value: the three words are assigned (overwriting
on repetition) and `V_TID` set, nothing else changes but the response; the payload is the three words most significant
byte first. -/
def Obligations.SetTidAssigns : Prop :=
  (∀ (w0 w1 w2 : Word32) (s : State),
    exec (.setTid w0 w1 w2) s = .next (answered 0x00 0 { s with tid0 := w0, tid1 := w1, tid2 := w2, vTid := true }))
  ∧ ∀ (d : Descriptor) (p : Bytes) (w0 w1 w2 : Word32),
      decode d p = .ok (.setTid w0 w1 w2) ↔ d = 0x040000000000000C ∧ p = be32 w0 ++ be32 w1 ++ be32 w2

/-- R135, R136, R26: `SET_FP_EN` and `SET_MI_EN` complete in every state: each assigns its own flag the value it carries and
changes nothing else but the response. -/
def Obligations.EnableCommandsAssignTheirFlag : Prop :=
  ∀ (f : Bool) (s : State),
    exec (.setFpEn f) s = .next (answered 0x00 0 { s with fpEn := f })
    ∧ exec (.setMiEn f) s = .next (answered 0x00 0 { s with miEn := f })

/-- R137: `SET_PASSWORD` completes when the payload fits `CRED_MAX`: the bytes are stored as given, unfiltered, and nothing
else changes but the response. -/
def Obligations.SetPasswordStoresTheBytes : Prop :=
  ∀ (p : Bytes) (s : State), p.length ≤ credMax s.caps →
    exec (.setPassword p) s = .next (answered 0x00 0 { s with password := p })

/-- R139, R27: `GET_STATUS` completes in every state; `INFO` is the `STATUS` word, bit by bit as R27 lays it out, and nothing
else changes but the response. -/
def Obligations.GetStatusReportsTheFlags : Prop :=
  ∀ s : State, ∃ w : Word16, exec .getStatus s = .next (answered 0x00 w s)
    ∧ w.getLsbD 0 = s.vMethod ∧ w.getLsbD 1 = s.vClass ∧ w.getLsbD 2 = s.vTid
    ∧ w.getLsbD 3 = s.fpEn ∧ w.getLsbD 4 = s.miEn ∧ w.getLsbD 5 = s.outValid
    ∧ (w.getLsbD 6 = true ↔ 0 < s.username.length)
    ∧ ∀ k, 7 ≤ k → w.getLsbD k = false

/-! ### The attribute commands -/

/-- R166, R160, R162: `ADD_ATTR` completes when the type is neither protected nor present and the entry fits: the entry goes
to the end of the store, and nothing else changes but the response (in particular no credential buffer). -/
def Obligations.AddAttrAppendsTheEntry : Prop :=
  ∀ (t : Word16) (v : Bytes) (s : State), t ≠ 0x0008 → t ≠ 0x8028 → (∀ a ∈ s.attr, a.code ≠ t) →
    bodySize s.attr + attrsize v ≤ bodyMax s.caps →
    exec (.addAttr t v) s = .next (answered 0x00 0 { s with attr := s.attr ++ [⟨t, v⟩] })

/-- R168, R169, R172, R160: `SET_ATTR_REQUESTED_TRANSPORT`, `SET_ATTR_LIFETIME` and `SET_ATTR_NONCE` complete when their
type is not present and the entry fits: the entry with its fixed type (0x0019, 0x000D, 0x0015) and its value
(`11 00 00 00`, the number big-endian, the bytes) goes to the end of the store, and nothing else changes but the
response. -/
def Obligations.FixedTypeCommandsAppendTheEntry : Prop :=
  (∀ s : State, (∀ a ∈ s.attr, a.code ≠ 0x0019) → bodySize s.attr + 8 ≤ bodyMax s.caps →
    exec .setAttrRequestedTransport s =
      .next (answered 0x00 0 { s with attr := s.attr ++ [⟨0x0019, [0x11, 0x00, 0x00, 0x00]⟩] }))
  ∧ (∀ (n : Word32) (s : State), (∀ a ∈ s.attr, a.code ≠ 0x000D) → bodySize s.attr + 8 ≤ bodyMax s.caps →
    exec (.setAttrLifetime n) s =
      .next (answered 0x00 0 { s with attr := s.attr ++ [⟨0x000D,
        [(n >>> 24).setWidth 8, (n >>> 16).setWidth 8, (n >>> 8).setWidth 8, n.setWidth 8]⟩] }))
  ∧ (∀ (p : Bytes) (s : State), (∀ a ∈ s.attr, a.code ≠ 0x0015) → bodySize s.attr + attrsize p ≤ bodyMax s.caps →
    exec (.setAttrNonce p) s = .next (answered 0x00 0 { s with attr := s.attr ++ [⟨0x0015, p⟩] }))

/-- R170, R171: `SET_ATTR_USERNAME` and `SET_ATTR_REALM` complete when the bytes fit `CRED_MAX`, their type is not present
and the entry fits: the credential buffer is assigned and the entry (type 0x0006, 0x0014) goes to the end of the store;
nothing else changes but the response (no flag is set). -/
def Obligations.CredentialCommandsStoreBoth : Prop :=
  ∀ (p : Bytes) (s : State), p.length ≤ credMax s.caps → bodySize s.attr + attrsize p ≤ bodyMax s.caps →
    ((∀ a ∈ s.attr, a.code ≠ 0x0006) →
      exec (.setAttrUsername p) s =
        .next (answered 0x00 0 { s with username := p, attr := s.attr ++ [⟨0x0006, p⟩] }))
    ∧ ((∀ a ∈ s.attr, a.code ≠ 0x0014) →
      exec (.setAttrRealm p) s =
        .next (answered 0x00 0 { s with realm := p, attr := s.attr ++ [⟨0x0014, p⟩] }))

/-- R167, R273: `ADD_ATTR` with a protected type raises `PolicyViolation` (0x01) with the type as `INFO`, in every state and
every time, before anything else is tested; the store is unchanged. -/
def Obligations.ProtectedTypesAreRefused : Prop :=
  ∀ (t : Word16) (v : Bytes) (s : State), t = 0x0008 ∨ t = 0x8028 →
    exec (.addAttr t v) s = .next (answered 0x01 t { s with phase := .idle })

/-- R161, R163, R170, R171: a later insertion of a type that is present is ignored with success, whatever the capacity, the
value and the command that made the first; only the credential half of the two credential commands still happens. -/
def Obligations.LaterInsertionOfATypeIsIgnored : Prop :=
  ∀ s : State,
    (∀ (t : Word16) (v : Bytes), t ≠ 0x0008 → t ≠ 0x8028 → (∃ a ∈ s.attr, a.code = t) →
      exec (.addAttr t v) s = .next (answered 0x00 0 s))
    ∧ ((∃ a ∈ s.attr, a.code = 0x0019) → exec .setAttrRequestedTransport s = .next (answered 0x00 0 s))
    ∧ (∀ n, (∃ a ∈ s.attr, a.code = 0x000D) → exec (.setAttrLifetime n) s = .next (answered 0x00 0 s))
    ∧ (∀ p, (∃ a ∈ s.attr, a.code = 0x0015) → exec (.setAttrNonce p) s = .next (answered 0x00 0 s))
    ∧ (∀ p, p.length ≤ credMax s.caps → (∃ a ∈ s.attr, a.code = 0x0006) →
      exec (.setAttrUsername p) s = .next (answered 0x00 0 { s with username := p }))
    ∧ (∀ p, p.length ≤ credMax s.caps → (∃ a ∈ s.attr, a.code = 0x0014) →
      exec (.setAttrRealm p) s = .next (answered 0x00 0 { s with realm := p }))

/-- R163, R137, R170, R171, R278: where a credential does not fit `CRED_MAX`, or a new entry does not fit `BODY_MAX`, the
command raises `CapacityExceeded` (0x12) with `INFO` 0 and changes nothing else, neither the store nor a credential
buffer. -/
def Obligations.CapacityExceededChangesNothing : Prop :=
  ∀ s : State,
    (∀ p : Bytes, credMax s.caps < p.length →
      exec (.setPassword p) s = .next (answered 0x12 0 { s with phase := .idle })
      ∧ exec (.setAttrUsername p) s = .next (answered 0x12 0 { s with phase := .idle })
      ∧ exec (.setAttrRealm p) s = .next (answered 0x12 0 { s with phase := .idle }))
    ∧ (∀ p : Bytes, bodyMax s.caps < bodySize s.attr + attrsize p →
      ((∀ a ∈ s.attr, a.code ≠ 0x0006) →
        exec (.setAttrUsername p) s = .next (answered 0x12 0 { s with phase := .idle }))
      ∧ ((∀ a ∈ s.attr, a.code ≠ 0x0014) →
        exec (.setAttrRealm p) s = .next (answered 0x12 0 { s with phase := .idle }))
      ∧ ((∀ a ∈ s.attr, a.code ≠ 0x0015) →
        exec (.setAttrNonce p) s = .next (answered 0x12 0 { s with phase := .idle }))
      ∧ ∀ t : Word16, t ≠ 0x0008 → t ≠ 0x8028 → (∀ a ∈ s.attr, a.code ≠ t) →
        exec (.addAttr t p) s = .next (answered 0x12 0 { s with phase := .idle }))
    ∧ (bodyMax s.caps < bodySize s.attr + 8 →
      ((∀ a ∈ s.attr, a.code ≠ 0x0019) →
        exec .setAttrRequestedTransport s = .next (answered 0x12 0 { s with phase := .idle }))
      ∧ ∀ n, (∀ a ∈ s.attr, a.code ≠ 0x000D) →
        exec (.setAttrLifetime n) s = .next (answered 0x12 0 { s with phase := .idle }))

/-- R102: the three equivalences between commands (the same effect and result in every state), and that neither of the two
credential commands is equivalent to an `ADD_ATTR`, whatever its type and value. -/
def Obligations.EquivalencesBetweenCommands : Prop :=
  (∀ s : State, exec .setAttrRequestedTransport s = exec (.addAttr 0x0019 [0x11, 0x00, 0x00, 0x00]) s)
  ∧ (∀ (n : Word32) (s : State), exec (.setAttrLifetime n) s = exec (.addAttr 0x000D (be32 n)) s)
  ∧ (∀ (p : Bytes) (s : State), exec (.setAttrNonce p) s = exec (.addAttr 0x0015 p) s)
  ∧ (∃ (p : Bytes) (s : State), ∀ (t : Word16) (v : Bytes), exec (.setAttrUsername p) s ≠ exec (.addAttr t v) s)
  ∧ ∃ (p : Bytes) (s : State), ∀ (t : Word16) (v : Bytes), exec (.setAttrRealm p) s ≠ exec (.addAttr t v) s

/-- R309, R170: after two successful `SET_ATTR_USERNAME`, the credential username is the second one and the attribute store
is as the first one left it; `ADD_ATTR` with type 0x0006 never touches the credential username. -/
def Obligations.UsernameAndItsAttributeComeApart : Prop :=
  (∀ (p q : Bytes) (s t u : State), exec (.setAttrUsername p) s = .next t → t.result = 0x00 →
    exec (.setAttrUsername q) t = .next u → u.result = 0x00 → u.username = q ∧ u.attr = t.attr)
  ∧ ∀ (v : Bytes) (s t : State), exec (.addAttr 0x0006 v) s = .next t → t.username = s.username

/-! ### The wire encodings -/

/-- R191, R104: the packing algorithm gives the bit layout `0 0 M11 M10 M9 M8 M7 C1 M6 M5 M4 C0 M3 M2 M1 M0`. -/
def Obligations.MessageTypeBitLayout : Prop :=
  ∀ (m : Method) (c : MsgClass),
    packType m c = (0 : BitVec 2) ++ m.extractLsb' 7 5 ++ c.extractLsb' 1 1 ++ m.extractLsb' 4 3
      ++ c.extractLsb' 0 1 ++ m.extractLsb' 0 4

/-- R192 (a), (c), (d): packing loses nothing: equal message types come from equal methods and classes; a method below 0x010
with class 0 is its own message type; the class bits add 0x0010 and 0x0100. -/
def Obligations.MessageTypePackingIsInjective : Prop :=
  (∀ (m m' : Method) (c c' : MsgClass), packType m c = packType m' c' → m = m' ∧ c = c')
  ∧ (∀ m : Method, m < 0x010 → packType m 0 = m.setWidth 16)
  ∧ ∀ m : Method, packType m 1 = packType m 0 + 0x0010 ∧ packType m 2 = packType m 0 + 0x0100
      ∧ packType m 3 = packType m 0 + 0x0110

/-- R110: the message types of the 24 named pairs of method and class. -/
def Obligations.NamedMessageTypes : Prop :=
  ([methodAllocate, methodRefresh, methodSend, methodData, methodCreatePermission, methodChannelBind].map fun m =>
    [classRequest, classIndication, classSuccessResponse, classErrorResponse].map fun c => packType m c)
  = [[0x0003, 0x0013, 0x0103, 0x0113], [0x0004, 0x0014, 0x0104, 0x0114], [0x0006, 0x0016, 0x0106, 0x0116],
     [0x0007, 0x0017, 0x0107, 0x0117], [0x0008, 0x0018, 0x0108, 0x0118], [0x0009, 0x0019, 0x0109, 0x0119]]

/-- R195, R33: the padding law: `n + padding(n)` is the least multiple of 4 that is at least `n`, `padding` is at most 3 and
0 on multiples of 4; so every framed attribute, and `body(ATTR)`, is a multiple of 4 (R65), and `body(ATTR)` is the number
of bytes the framed attributes take. -/
def Obligations.PaddingLaw : Prop :=
  (∀ n : Nat, (n + padding n) % 4 = 0 ∧ ∀ m, n ≤ m → m % 4 = 0 → n + padding n ≤ m)
  ∧ (∀ n : Nat, padding n < 4 ∧ (n % 4 = 0 → padding n = 0) ∧ (n % 4 = 1 → padding n = 3)
      ∧ (n % 4 = 2 → padding n = 2) ∧ (n % 4 = 3 → padding n = 1))
  ∧ (∀ v : Bytes, attrsize v % 4 = 0)
  ∧ ∀ l : List Attribute, bodySize l % 4 = 0 ∧ bodySize l = (l.map fun a => attrsize a.value).sum
      ∧ (wireAttributes l).length = bodySize l

/-! ### The password filter and the key -/

/-- R231, R232: the class of each of the 256 byte values (that 0x1F passes follows the spec's literal, which the spec doubts:
log entry 13). -/
def Obligations.PasswordByteClasses : Prop :=
  ∀ b : Byte,
    (byteClass b = .drop ↔ b.toNat = 0xAD)
    ∧ (byteClass b = .space ↔ b.toNat = 0x20 ∨ b.toNat = 0xA0)
    ∧ (byteClass b = .fail ↔ b.toNat ≤ 0x1E ∨ b.toNat = 0x7F ∨ (0x80 ≤ b.toNat ∧ b.toNat ≤ 0x9F))
    ∧ (byteClass b = .pass ↔ b.toNat = 0x1F ∨ (0x21 ≤ b.toNat ∧ b.toNat ≤ 0x7E)
        ∨ (0xA1 ≤ b.toNat ∧ b.toNat ≤ 0xAC) ∨ 0xAE ≤ b.toNat)

/-- R231: the filter fails exactly at the first byte of the fail class, with its index in the password; otherwise it succeeds,
with 0xAD dropped, 0x20 and 0xA0 each become one 0x20, and every other byte kept, in order. -/
def Obligations.PasswordFilterResult : Prop :=
  ∀ p : Bytes,
    (∀ i : Nat, passwordFilter p = .error i ↔
      ∃ h : i < p.length, byteClass p[i] = .fail ∧ ∀ (j : Nat) (hj : j < i), byteClass (p[j]'(by omega)) ≠ .fail)
    ∧ ((∀ b ∈ p, byteClass b ≠ .fail) →
        passwordFilter p = .ok ((p.filter fun b => b != 0xAD).map fun b => if b = 0xA0 then 0x20 else b))

/-- R233, R234: the key is `md5(USERNAME ":" REALM ":" FPWD)`, 16 bytes, when the credential username is not empty, and the
filtered password otherwise; the realm takes no part in the choice. A password the filter rejects gives no key. -/
def Obligations.KeyDerivationModes : Prop :=
  ∀ (h : Primitives) (s : State),
    (∀ f, passwordFilter s.password = .ok f →
      (s.username ≠ [] → deriveKey h s = .ok { s with
        fpwd := f
        key := (h.md5 (s.username ++ 0x3A :: (s.realm ++ 0x3A :: f))).toList })
      ∧ (s.username = [] → deriveKey h s = .ok { s with fpwd := f, key := f }))
    ∧ ∀ i, passwordFilter s.password = .error i → deriveKey h s = .error i

/-! ### SERIALIZE -/

/-- R199, R203 to R208, R71, R236, R239: `SERIALIZE` completes when the message is configured, the password passes the filter
or integrity is disabled, and the store is within `BODY_MAX`. The phases that write, hash and rewrite the buffer leave
exactly the wire message in it: header with the final length, framed attributes in order, MESSAGE-INTEGRITY over the data
with the length that counts it, FINGERPRINT over everything before it with the final length. `OLEN` and `INFO` are the size
and the size minus 20. Nothing else changes but the write pointer (that it keeps its last value is the model's choice, log entry 7) and the
scratch registers (whose content is a free value, log entry 3). -/
def Obligations.SerializeProducesTheWireMessage : Prop :=
  ∀ (s : State) (f : Bytes), Configured s → PasswordAccepted s f → bodySize s.attr ≤ bodyMax s.caps →
    ∃ t : State, exec .serialize s = .next t
      ∧ t = { answered 0x00 (BitVec.ofNat 16 (finalLength s)) s with
          outValid := true
          olen := BitVec.ofNat 17 (20 + finalLength s)
          obuf := obufOfBytes 0
            (wireMessage platformPrimitives (hmacKey platformPrimitives s.username s.realm f) s)
          phase := .idle
          wp := BitVec.ofNat 17 (20 + finalLength s)
          fpwd := t.fpwd
          key := t.key
          digest := t.digest
          crcv := t.crcv
          draws := s.draws + 1 }
      ∧ t.olen.toNat = 20 + finalLength s ∧ t.info.toNat = finalLength s

/-- R201, R200, R29: `SERIALIZE` of a message that is not configured raises `NotConfigured` (0x11) with the mask of what is
missing; no output is left, and nothing else changes but the scratch registers (free values, log entry 3). -/
def Obligations.SerializeUnconfiguredIsRefused : Prop :=
  ∀ s : State, ¬ Configured s →
    ∃ t : State, exec .serialize s = .next t
      ∧ t = { answered 0x11 (BitVec.ofNat 16 ((if s.vMethod = true then 0 else 1) + (if s.vClass = true then 0 else 2)
            + (if s.vTid = true then 0 else 4))) s with
          outValid := false
          olen := 0
          obuf := []
          phase := .idle
          fpwd := t.fpwd
          key := t.key
          digest := t.digest
          crcv := t.crcv
          draws := s.draws + 1 }

/-- R202, R274, R200: `SERIALIZE` with integrity enabled and a password the filter rejects raises `CredentialFormatError`
(0x02) with the index of the first rejected byte; no output is left, and nothing else changes but the scratch
registers (free values, log entry 3). -/
def Obligations.SerializeWithRejectedPassword : Prop :=
  ∀ (s : State) (i : Nat), Configured s → s.miEn = true → passwordFilter s.password = .error i →
    ∃ t : State, exec .serialize s = .next t
      ∧ t = { answered 0x02 (BitVec.ofNat 16 i) s with
          outValid := false
          olen := 0
          obuf := []
          phase := .idle
          fpwd := t.fpwd
          key := t.key
          digest := t.digest
          crcv := t.crcv
          draws := s.draws + 1 }

/-- R209: `SERIALIZE`, whether it succeeds or fails, leaves the method, the class, the transaction id, the valid bits, the
enable flags, the attribute store and the credentials as they were. -/
def Obligations.SerializeKeepsTheMessage : Prop :=
  ∀ s t : State, exec .serialize s = .next t → SameMessage s t

/-- R196: when `SERIALIZE` ends with success, the 16-bit number at `OBUF[2:4)` equals `OLEN - 20`, in all four combinations
of the enable flags. -/
def Obligations.MessageLengthFieldIsSizeMinusHeader : Prop :=
  ∀ s t : State, bodySize s.attr ≤ bodyMax s.caps → exec .serialize s = .next t → t.result = 0x00 →
    ∃ b2 b3 : Byte, obufRead t.obuf 2 = some b2 ∧ obufRead t.obuf 3 = some b3
      ∧ (b2 ++ b3).toNat + 20 = t.olen.toNat

/-- R71, R103, R61: the map of the output buffer: the message type, the length, the cookie and the transaction id at their
fixed offsets, the framed attributes from offset 20 in list order, and the total size. -/
def Obligations.OutputBufferMap : Prop :=
  ∀ s t : State, bodySize s.attr ≤ bodyMax s.caps → exec .serialize s = .next t → t.result = 0x00 →
    obufReadBytes t.obuf 0 2 = some (be16 (packType s.method s.cls))
    ∧ obufReadBytes t.obuf 2 2 = some (be16 (BitVec.ofNat 16 (t.olen.toNat - 20)))
    ∧ obufReadBytes t.obuf 4 4 = some [0x21, 0x12, 0xA4, 0x42]
    ∧ obufReadBytes t.obuf 8 4 = some (be32 s.tid0)
    ∧ obufReadBytes t.obuf 12 4 = some (be32 s.tid1)
    ∧ obufReadBytes t.obuf 16 4 = some (be32 s.tid2)
    ∧ obufReadBytes t.obuf 20 (bodySize s.attr) = some (s.attr.flatMap fun a =>
        be16 a.code ++ be16 (BitVec.ofNat 16 a.value.length) ++ a.value ++ List.replicate (padding a.value.length) 0)
    ∧ t.olen.toNat = 20 + bodySize s.attr + (if s.miEn = true then 24 else 0) + (if s.fpEn = true then 8 else 0)

/-- R236, R235, R106, R74: MESSAGE-INTEGRITY stands right after the stored attributes: `00 08 00 14` and the HMAC, under the
derived key, of the header with the length `body(ATTR) + 24` (which never counts FINGERPRINT) followed by the framed
attributes. -/
def Obligations.MessageIntegrityValue : Prop :=
  ∀ (s t : State) (f : Bytes), bodySize s.attr ≤ bodyMax s.caps → exec .serialize s = .next t → t.result = 0x00 →
    s.miEn = true → passwordFilter s.password = .ok f →
    obufReadBytes t.obuf (20 + bodySize s.attr) 24 = some ([0x00, 0x08, 0x00, 0x14]
      ++ (platformPrimitives.hmacSha1 (hmacKey platformPrimitives s.username s.realm f)
          (be16 (packType s.method s.cls) ++ be16 (BitVec.ofNat 16 (bodySize s.attr + 24)) ++ [0x21, 0x12, 0xA4, 0x42]
            ++ be32 s.tid0 ++ be32 s.tid1 ++ be32 s.tid2
            ++ s.attr.flatMap fun a => be16 a.code ++ be16 (BitVec.ofNat 16 a.value.length) ++ a.value
                ++ List.replicate (padding a.value.length) 0)).toList)

/-- R239, R238, R240, R74: FINGERPRINT is the last 8 bytes: `80 28 00 04` and, most significant byte first, the CRC of all the
bytes of the finished message before it (the length field in them is the final one) XORed with 0x5354554E. -/
def Obligations.FingerprintValue : Prop :=
  ∀ s t : State, bodySize s.attr ≤ bodyMax s.caps → exec .serialize s = .next t → t.result = 0x00 → s.fpEn = true →
    ∃ data : Bytes, obufReadBytes t.obuf 0 (t.olen.toNat - 8) = some data
      ∧ (data.drop 2).take 2 = be16 (BitVec.ofNat 16 (t.olen.toNat - 20))
      ∧ obufReadBytes t.obuf (t.olen.toNat - 8) 8 =
          some ([0x80, 0x28, 0x00, 0x04] ++ be32 (platformPrimitives.crc32 data ^^^ 0x5354554E))

/-- R210, R237, R243: the output is a function of the message and the primitive functions only: two states that hold the
same message, whatever else they hold (an earlier output, scratch, an earlier response), give the same output bytes, length
and response. -/
def Obligations.OutputDependsOnTheMessageOnly : Prop :=
  ∀ s u t : State, SameMessage s u → bodySize s.attr ≤ bodyMax s.caps → exec .serialize s = .next t →
    ∃ v : State, exec .serialize u = .next v ∧ v.obuf = t.obuf ∧ v.olen = t.olen ∧ v.outValid = t.outValid
      ∧ v.result = t.result ∧ v.info = t.info

/-- R38, R210: two `SERIALIZE` commands with no command between them produce the same `OBUF`, `OLEN`, `RESULT` and `INFO`. -/
def Obligations.SerializeTwiceGivesTheSameOutput : Prop :=
  ∀ s t : State, bodySize s.attr ≤ bodyMax s.caps → exec .serialize s = .next t →
    ∃ u : State, exec .serialize t = .next u ∧ u.obuf = t.obuf ∧ u.olen = t.olen ∧ u.outValid = t.outValid
      ∧ u.result = t.result ∧ u.info = t.info

/-! ### Rules about every command -/

/-- R270, R28, R92, R212, R284 (a): every command ends in a next state when the store is within `BODY_MAX`; none is ever
refused; and the response word carries the `RESULT` and `INFO` it wrote (where the
model keeps that word: log entry 6). -/
def Obligations.EveryCommandEndsWithAResponse : Prop :=
  ∀ (i : Instr) (s : State),
    (bodySize s.attr ≤ bodyMax s.caps → ∃ t, exec i s = .next t)
    ∧ (∀ r, exec i s ≠ .refused r)
    ∧ ∀ t, exec i s = .next t → t.portOut = .response (t.result ++ (0 : BitVec 8) ++ t.info)

/-- R271, R272: which command can end with which result code; no other code is ever produced by a legal command. -/
def Obligations.ResultCodesByCommand : Prop :=
  ∀ (i : Instr) (s t : State), exec i s = .next t →
    t.result = 0x00
    ∨ (t.result = 0x01 ∧ opcodeOf i = .addAttr)
    ∨ (t.result = 0x02 ∧ opcodeOf i = .serialize ∧ s.miEn = true)
    ∨ (t.result = 0x11 ∧ opcodeOf i = .serialize)
    ∨ (t.result = 0x12 ∧ opcodeOf i ∈ [Opcode.setPassword, .setAttrUsername, .setAttrRealm, .setAttrNonce,
        .setAttrLifetime, .setAttrRequestedTransport, .addAttr])

/-- R275, R130: a command that raises, `SERIALIZE` aside, has changed no state but `RESULT` and `INFO` (and the response; the
block is idle). -/
def Obligations.ErrorsArePrecise : Prop :=
  ∀ (i : Instr) (s t : State), i ≠ .serialize → exec i s = .next t → t.result ≠ 0x00 →
    t = answered t.result t.info { s with phase := .idle }

/-- R24: each valid bit is set by the command that writes the register of the same name, cleared by `CLEAR`, and changed by
nothing else. -/
def Obligations.ValidBitsAndTheirWriters : Prop :=
  ∀ (i : Instr) (s t : State), exec i s = .next t →
    t.vMethod = (match i with | .setMethod _ => true | .clear => false | _ => s.vMethod)
    ∧ t.vClass = (match i with | .setClass _ => true | .clear => false | _ => s.vClass)
    ∧ t.vTid = (match i with | .setTid _ _ _ => true | .clear => false | _ => s.vTid)

/-- R21, R22, R23, R26: the message registers and the enable flags are written only by their own command and by `CLEAR`. -/
def Obligations.MessageRegistersAndTheirWriters : Prop :=
  ∀ (i : Instr) (s t : State), exec i s = .next t →
    t.method = (match i with | .setMethod m => m | .clear => 0 | _ => s.method)
    ∧ t.cls = (match i with | .setClass c => c | .clear => 0 | _ => s.cls)
    ∧ t.tid0 = (match i with | .setTid w _ _ => w | .clear => 0 | _ => s.tid0)
    ∧ t.tid1 = (match i with | .setTid _ w _ => w | .clear => 0 | _ => s.tid1)
    ∧ t.tid2 = (match i with | .setTid _ _ w => w | .clear => 0 | _ => s.tid2)
    ∧ t.fpEn = (match i with | .setFpEn f => f | .clear => false | _ => s.fpEn)
    ∧ t.miEn = (match i with | .setMiEn f => f | .clear => false | _ => s.miEn)

/-- R34, R314: each credential buffer is written only by its own command, when that succeeds, and emptied by `CLEAR`; it
stays loaded across every other command. -/
def Obligations.CredentialsAndTheirWriters : Prop :=
  ∀ (i : Instr) (s t : State), exec i s = .next t →
    t.username = (match i with
      | .setAttrUsername p => if t.result = 0x00 then p else s.username | .clear => [] | _ => s.username)
    ∧ t.realm = (match i with
      | .setAttrRealm p => if t.result = 0x00 then p else s.realm | .clear => [] | _ => s.realm)
    ∧ t.password = (match i with
      | .setPassword p => if t.result = 0x00 then p else s.password | .clear => [] | _ => s.password)

/-- R32, R162, R308: no command but `CLEAR` removes, reorders or changes a stored attribute: the store after a command is
the store before it, with at most one new last entry. -/
def Obligations.StoredAttributesStay : Prop :=
  ∀ (i : Instr) (s t : State), i ≠ .clear → exec i s = .next t →
    t.attr = s.attr ∨ ∃ a : Attribute, t.attr = s.attr ++ [a] ∧ ∀ b ∈ s.attr, b.code ≠ a.code

/-- R30, R307, R35, R37: a command other than `CLEAR` and `SERIALIZE` leaves the finished output as it is, every byte of the
buffer with it, and the write pointer and the scratch registers. -/
def Obligations.BuilderCommandsKeepTheOutput : Prop :=
  ∀ (i : Instr) (s t : State), isBuilder i = true → exec i s = .next t →
    t.outValid = s.outValid ∧ t.olen = s.olen ∧ (∀ a, obufRead t.obuf a = obufRead s.obuf a) ∧ t.obuf = s.obuf
    ∧ t.wp = s.wp ∧ t.fpwd = s.fpwd ∧ t.key = s.key ∧ t.digest = s.digest ∧ t.crcv = s.crcv

/-- R281, R34, R274, R313: while integrity is disabled the password cannot be observed: a command (other than the two that
overwrite the password) that runs in two states that differ only in the password ends in states that differ only in the
password. The store is within `BODY_MAX`, which StepKeepsTheInvariants says of every state a run reaches. -/
def Obligations.PasswordUnseenWithoutIntegrity : Prop :=
  ∀ (i : Instr) (s t : State) (q : Bytes), s.miEn = false → bodySize s.attr ≤ bodyMax s.caps →
    opcodeOf i ≠ .setPassword → i ≠ .clear → exec i s = .next t →
    exec i { s with password := q } = .next { t with password := q }

/-- R7, R14, R77 (log entries 1, 5): no step changes the capacities, and a step takes at most the first event at the
ports. -/
def Obligations.StepsKeepCapacitiesAndLaterEvents : Prop :=
  ∀ s t : State, step s = .next t → t.caps = s.caps ∧ t.port = s.port.tail

/-! ### Invariants -/

/-- R32, R30, R35, R36, R65, R196, R20, R24, R271: from every state with the invariants (the store of R32 (a) to (d), buffers
within their capacities, `OBUF`, `OLEN` and `OUT_VALID` in agreement with a right length field, unwritten registers at their
reset content, an idle block, a produced result code), a step leads to a state with the invariants. -/
def Obligations.StepKeepsTheInvariants : Prop :=
  ∀ s t : State, Inv s → step s = .next t → Inv t

/-- The reset state has the invariants (R40, R32). -/
def Obligations.ResetHasTheInvariants : Prop :=
  Inv State.reset

/-- R35, R67, R68: the canonical form of the output buffer (offsets strictly rising and below `OBUF_BYTES`; the form is the
model's, log entry 4) is kept by every step, from every state that has it. -/
def Obligations.StepKeepsTheBufferCanonical : Prop :=
  ∀ s t : State, Memory.wf s = true → step s = .next t → Memory.wf t = true

/-- R212, R69, R270: in a state with the invariants no step faults, and a command is never refused: no write is out of
bounds and no read touches a byte without a specified value (the faults are the model's, log entry 4). -/
def Obligations.NoStepFaultsUnderTheInvariants : Prop :=
  ∀ s : State, Inv s →
    (∀ e, step s ≠ .fault e)
    ∧ ∀ (d : Descriptor) (p : Bytes) (rest : List PortEvent), s.port = .command d p :: rest → ∃ t, step s = .next t
end

