-- ==== Sys2Proof/Laws/Encoding.lean ====
section
/-!
SUPPORT. The laws of the command encoding: the fields of a descriptor, the opcode byte, the two byte orders of a 32-bit
operand, and what a decoded command says of its descriptor and payload (spec/30_encoding.md R90, R94, R95).
-/

namespace Sys2Proof

/-! ### The opcode byte -/

/-- A byte selects an opcode exactly when it is that opcode's byte (R95 test 1, R100). -/
theorem opcodeOfByte_eq_some (b : BitVec 8) (o : Opcode) : opcodeOfByte b = some o ↔ b = opcodeByte o := by
  cases o <;> revert b <;> decide

/-! ### The fields of a descriptor (R90) -/

@[simp] theorem fieldOpc_makeDescriptor (o : Opcode) (a b : Word16) : fieldOpc (makeDescriptor o a b) = opcodeByte o := by
  apply BitVec.eq_of_getLsbD_eq; intro i hi
  simp [fieldOpc, makeDescriptor]; grind

@[simp] theorem fieldRsv_makeDescriptor (o : Opcode) (a b : Word16) : fieldRsv (makeDescriptor o a b) = 0 := by
  apply BitVec.eq_of_getLsbD_eq; intro i hi
  simp [fieldRsv, makeDescriptor]; grind

@[simp] theorem fieldA_makeDescriptor (o : Opcode) (a b : Word16) : fieldA (makeDescriptor o a b) = a := by
  apply BitVec.eq_of_getLsbD_eq; intro i hi
  simp [fieldA, makeDescriptor]; grind

@[simp] theorem fieldB_makeDescriptor (o : Opcode) (a b : Word16) : fieldB (makeDescriptor o a b) = b := by
  apply BitVec.eq_of_getLsbD_eq; intro i hi
  simp [fieldB, makeDescriptor]; grind

/-- The four fields are all of a descriptor. -/
theorem descriptor_of_fields (d : Descriptor) : fieldOpc d ++ fieldRsv d ++ fieldA d ++ fieldB d = d := by
  unfold fieldOpc fieldRsv fieldA fieldB
  rw [BitVec.extractLsb'_append_extractLsb'_eq_extractLsb' (by rfl),
    BitVec.extractLsb'_append_extractLsb'_eq_extractLsb' (by rfl),
    BitVec.extractLsb'_append_extractLsb'_eq_extractLsb' (by rfl)]
  exact BitVec.extractLsb'_eq_self ..

/-- A descriptor is the one `makeDescriptor` builds exactly when its fields are. -/
theorem eq_makeDescriptor (d : Descriptor) (o : Opcode) (a b : Word16) :
    d = makeDescriptor o a b ↔ fieldOpc d = opcodeByte o ∧ fieldRsv d = 0 ∧ fieldA d = a ∧ fieldB d = b := by
  constructor
  · rintro rfl; simp
  · rintro ⟨h1, h2, rfl, rfl⟩
    rw [makeDescriptor, ← h1, ← h2, descriptor_of_fields]

/-! ### Byte order (R11, R94) -/

/-- The word read from the bytes of `be32 w` is `w`. -/
@[simp] theorem payloadWord_be32 (w : Word32) (r : Bytes) : payloadWord (be32 w ++ r) 0 = w := by
  apply BitVec.eq_of_getLsbD_eq; intro i hi
  simp [payloadWord, be32, word32]; grind

@[simp] theorem payloadWord_be32_all (w : Word32) : payloadWord (be32 w) 0 = w := by
  simpa using payloadWord_be32 w []

/-- The next words of a payload are those of the bytes after the first four. -/
theorem payloadWord_succ (w : Word32) (r : Bytes) (k : Nat) : payloadWord (be32 w ++ r) (k + 1) = payloadWord r k := by
  simp only [payloadWord, be32, List.cons_append, List.nil_append, List.getD_eq_getElem?_getD]
  rw [show 4 * (k + 1) = 4 * k + 4 by omega]
  rfl

/-- The bytes of the word read from four bytes are those bytes. -/
@[simp] theorem be32_word32 (b0 b1 b2 b3 : Byte) : be32 (word32 b0 b1 b2 b3) = [b0, b1, b2, b3] := by
  simp only [be32, word32, List.cons.injEq, and_true]
  refine ⟨?_, ?_, ?_, ?_⟩ <;> apply BitVec.eq_of_getLsbD_eq <;> intro i hi <;>
    simp <;> grind

/-! ### The decoder (R95) -/

/-- What a decoded command says of its descriptor and payload: the five tests passed, and the operands are those R94
assembles. -/
theorem decode_ok {d : Descriptor} {p : Bytes} {i : Instr} (h : decode d p = .ok i) :
    ∃ o, fieldOpc d = opcodeByte o ∧ fieldRsv d = 0 ∧ immediateLegal o (fieldA d) = true
      ∧ lengthLegal o (fieldB d) = true ∧ p.length = (fieldB d).toNat ∧ i = assemble o (fieldA d) p := by
  unfold decode at h
  split at h
  · cases h
  · next o ho =>
    refine ⟨o, (opcodeOfByte_eq_some _ _).1 ho, ?_⟩
    repeat' split at h
    all_goals simp_all

/-- The decoder on a descriptor whose opcode byte is known. -/
theorem decode_of_opcode {d : Descriptor} {o : Opcode} (h : fieldOpc d = opcodeByte o) (p : Bytes) :
    decode d p =
      if fieldRsv d ≠ 0 then .error .reserved
      else if immediateLegal o (fieldA d) = false then .error .immediate
      else if lengthLegal o (fieldB d) = false then .error .length
      else if p.length ≠ (fieldB d).toNat then .error .payload
      else .ok (assemble o (fieldA d) p) := by
  unfold decode
  rw [(opcodeOfByte_eq_some _ _).2 h]

/-- An assembled command has its opcode. -/
@[simp] theorem opcodeOf_assemble (o : Opcode) (a : Word16) (p : Bytes) : opcodeOf (assemble o a p) = o := by
  cases o <;> rfl

end Sys2Proof
end

