-- ==== Sys2Proof/Laws/Memory.lean ====
section
/-!
SUPPORT. The laws of the output buffer: read after write, the canonical form is kept, and a buffer that holds exactly
a byte string is extended and overwritten as the byte string is.
-/

namespace Sys2Proof.Machine

/-! ### One byte -/

/-- Below the first listed offset nothing is read. -/
theorem obufRead_of_wfFrom {m : List Host.Cell} {j n k : Nat} (hm : obufWfFrom j n m = true) (hk : k < j) :
    obufRead m k = none := by
  cases m with
  | nil => rfl
  | cons c m =>
    simp only [obufWfFrom, Bool.and_eq_true, decide_eq_true_eq] at hm
    simp only [obufRead]
    split
    · omega
    · simp; omega

/-- Reading after a write: the byte written at its offset, the old byte everywhere else. -/
theorem obufRead_write {m : List Host.Cell} {j n : Nat} (hm : obufWfFrom j n m = true) (i : Nat) (v : Byte) (k : Nat) :
    obufRead (obufWrite m i v) k = if k = i then some v else obufRead m k := by
  induction m generalizing j with
  | nil => simp only [obufWrite, obufRead]; split <;> simp
  | cons c m ih =>
    obtain ⟨a, b⟩ := c
    simp only [obufWfFrom, Bool.and_eq_true, decide_eq_true_eq] at hm
    have hk := ih hm.2
    simp only [obufWrite]
    split
    · next h => subst h; simp only [obufRead]; split <;> simp_all
    · next h =>
      split
      · simp only [obufRead]
        by_cases h1 : k = i
        · simp [h1]
        · by_cases h2 : k < i
          · simp [h1, h2, show ¬ k = a by omega, show k < a by omega]
          · simp [h1, h2]
      · simp only [obufRead, hk]
        by_cases h1 : k = i
        · simp [h1, h, show ¬ i < a by omega]
        · simp [h1]

/-- A write keeps the canonical form. -/
theorem obufWfFrom_write {m : List Host.Cell} {j n i : Nat} (hm : obufWfFrom j n m = true) (hj : j ≤ i) (hi : i < n)
    (v : Byte) : obufWfFrom j n (obufWrite m i v) = true := by
  induction m generalizing j with
  | nil => simp [obufWrite, obufWfFrom, hj, hi]
  | cons c m ih =>
    obtain ⟨a, b⟩ := c
    simp only [obufWfFrom, Bool.and_eq_true, decide_eq_true_eq] at hm
    simp only [obufWrite]
    split
    · next h => subst h; simp [obufWfFrom, hm]
    · next h =>
      split
      · simp only [obufWfFrom, Bool.and_eq_true, decide_eq_true_eq]; grind
      · simp only [obufWfFrom, Bool.and_eq_true, decide_eq_true_eq]
        exact ⟨hm.1, ih hm.2 (by omega)⟩

/-! ### Byte strings -/

/-- Writing a byte string keeps the canonical form. -/
theorem obufWfFrom_writeBytes {m : List Host.Cell} {j n i : Nat} (bs : Bytes) (hm : obufWfFrom j n m = true) (hj : j ≤ i)
    (hi : i + bs.length ≤ n) : obufWfFrom j n (obufWriteBytes m i bs) = true := by
  induction bs generalizing m i with
  | nil => exact hm
  | cons b bs ih =>
    simp only [List.length_cons] at hi
    exact ih (obufWfFrom_write hm hj (by omega) b) (by omega) (by omega)

/-- Writing a byte string changes no byte outside it (R67, R68). -/
theorem obufRead_writeBytes_outside {m : List Host.Cell} {j n i k : Nat} (bs : Bytes) (hm : obufWfFrom j n m = true)
    (hj : j ≤ i) (hi : i + bs.length ≤ n) (hk : k < i ∨ i + bs.length ≤ k) :
    obufRead (obufWriteBytes m i bs) k = obufRead m k := by
  induction bs generalizing m i with
  | nil => rfl
  | cons b bs ih =>
    simp only [List.length_cons] at hi hk
    simp only [obufWriteBytes]
    rw [ih (obufWfFrom_write hm hj (by omega) b) (by omega) (by omega) (by omega), obufRead_write hm]
    simp; omega

/-- Reading back a byte of a byte string just written (R63, R67, R68). -/
theorem obufRead_writeBytes_inside {m : List Host.Cell} {j n i k : Nat} (bs : Bytes) (hm : obufWfFrom j n m = true)
    (hj : j ≤ i) (hi : i + bs.length ≤ n) (hk : k < bs.length) :
    obufRead (obufWriteBytes m i bs) (i + k) = some bs[k] := by
  induction bs generalizing m i k with
  | nil => simp at hk
  | cons b bs ih =>
    simp only [List.length_cons] at hi hk
    simp only [obufWriteBytes]
    have hw := obufWfFrom_write hm hj (by omega : i < n) b
    cases k with
    | zero =>
      rw [obufRead_writeBytes_outside bs hw (by omega) (by omega) (by omega), obufRead_write hm]
      simp
    | succ k =>
      have := ih (i := i + 1) (k := k) hw (by omega) (by omega) (by omega)
      rw [show i + (k + 1) = i + 1 + k by omega, this]
      simp

/-! ### A buffer that holds exactly a byte string -/

theorem obufOfBytes_append (i : Nat) (a b : Bytes) :
    obufOfBytes i (a ++ b) = obufOfBytes i a ++ obufOfBytes (i + a.length) b := by
  induction a generalizing i with
  | nil => simp [obufOfBytes]
  | cons x a ih =>
    simp only [List.cons_append, obufOfBytes, ih, List.length_cons]
    rw [show i + 1 + a.length = i + (a.length + 1) by omega]

theorem length_obufOfBytes (i : Nat) (a : Bytes) : (obufOfBytes i a).length = a.length := by
  induction a generalizing i with
  | nil => rfl
  | cons x a ih => simp [obufOfBytes, ih]

/-- It is in canonical form. -/
theorem obufWfFrom_ofBytes {i n : Nat} (a : Bytes) (h : i + a.length ≤ n) : obufWfFrom i n (obufOfBytes i a) = true := by
  induction a generalizing i with
  | nil => rfl
  | cons x a ih =>
    simp only [List.length_cons] at h
    simp only [obufOfBytes, obufWfFrom, Bool.and_eq_true, decide_eq_true_eq]
    exact ⟨⟨by omega, by omega⟩, ih (by omega)⟩

/-- Reading it gives the byte string's byte. -/
theorem obufRead_ofBytes (i : Nat) (a : Bytes) (k : Nat) : obufRead (obufOfBytes i a) (i + k) = a[k]? := by
  induction a generalizing i k with
  | nil => rfl
  | cons x a ih =>
    simp only [obufOfBytes, obufRead]
    cases k with
    | zero => simp
    | succ k =>
      have := ih (i + 1) k
      rw [show i + 1 + k = i + (k + 1) by omega] at this
      simp [this]

/-- Writing one byte over it changes that byte of the string. -/
theorem obufWrite_ofBytes (i : Nat) (a : Bytes) (k : Nat) (v : Byte) (hk : k < a.length) :
    obufWrite (obufOfBytes i a) (i + k) v = obufOfBytes i (a.set k v) := by
  induction a generalizing i k with
  | nil => simp at hk
  | cons x a ih =>
    cases k with
    | zero => simp [obufOfBytes, obufWrite]
    | succ k =>
      simp only [List.length_cons] at hk
      have := ih (i + 1) k (by omega)
      rw [show i + 1 + k = i + (k + 1) by omega] at this
      simp [obufOfBytes, obufWrite, this]

/-- Writing one byte at its end appends the byte. -/
theorem obufWrite_ofBytes_end (i : Nat) (a : Bytes) (v : Byte) :
    obufWrite (obufOfBytes i a) (i + a.length) v = obufOfBytes i (a ++ [v]) := by
  induction a generalizing i with
  | nil => simp [obufOfBytes, obufWrite]
  | cons x a ih =>
    have := ih (i + 1)
    rw [show i + 1 + a.length = i + (a.length + 1) by omega] at this
    simp [obufOfBytes, obufWrite, this]

/-- Writing a byte string at its end appends the byte string. -/
theorem obufWriteBytes_ofBytes_end (i : Nat) (a bs : Bytes) :
    obufWriteBytes (obufOfBytes i a) (i + a.length) bs = obufOfBytes i (a ++ bs) := by
  induction bs generalizing a with
  | nil => simp [obufWriteBytes]
  | cons b bs ih =>
    simp only [obufWriteBytes, obufWrite_ofBytes_end]
    have := ih (a ++ [b])
    rw [List.length_append, List.length_singleton] at this
    rw [show i + a.length + 1 = i + (a.length + 1) by omega, this]
    simp

/-- Writing a byte string over it replaces that part of the string. -/
theorem obufWriteBytes_ofBytes (i : Nat) (a : Bytes) (k : Nat) (bs : Bytes) (hk : k + bs.length ≤ a.length) :
    obufWriteBytes (obufOfBytes i a) (i + k) bs = obufOfBytes i (a.take k ++ bs ++ a.drop (k + bs.length)) := by
  induction bs generalizing a k with
  | nil => simp [obufWriteBytes]
  | cons b bs ih =>
    simp only [List.length_cons] at hk
    simp only [obufWriteBytes, obufWrite_ofBytes i a k b (by omega)]
    have := ih (a.set k b) (k + 1) (by simp; omega)
    rw [show i + k + 1 = i + (k + 1) by omega, this]
    congr 1
    rw [List.take_add_one, List.getElem?_set_self (by omega), List.take_set_of_le (by omega),
      List.drop_set_of_lt (by omega)]
    simp [show k + 1 + bs.length = k + (bs.length + 1) by omega]

/-- Reading all of it gives the byte string. -/
theorem obufReadBytes_ofBytes (i : Nat) (a : Bytes) (k n : Nat) (h : k + n ≤ a.length) :
    obufReadBytes (obufOfBytes i a) (i + k) n = some ((a.drop k).take n) := by
  induction n generalizing k with
  | zero => simp [obufReadBytes]
  | succ n ih =>
    have := ih (k + 1) (by omega)
    simp only [obufReadBytes, obufRead_ofBytes]
    rw [show i + k + 1 = i + (k + 1) by omega, this, List.getElem?_eq_getElem (by omega)]
    rw [List.drop_eq_getElem_cons (show k < List.length a by omega), List.take_succ_cons]

end Sys2Proof.Machine
end

