-- ==== Sys2Proof/Laws/State.lean ====
section
/-!
SUPPORT. One lemma per field of the state for each shared update, true by rfl: what the update writes, and that it leaves
every other field as it was.
-/

namespace Sys2Proof.Machine

/-! ### `reportOk` -/

@[simp] theorem reportOk_method (i : Word16) (s : State) : (reportOk i s).method = s.method := rfl
@[simp] theorem reportOk_cls (i : Word16) (s : State) : (reportOk i s).cls = s.cls := rfl
@[simp] theorem reportOk_tid0 (i : Word16) (s : State) : (reportOk i s).tid0 = s.tid0 := rfl
@[simp] theorem reportOk_tid1 (i : Word16) (s : State) : (reportOk i s).tid1 = s.tid1 := rfl
@[simp] theorem reportOk_tid2 (i : Word16) (s : State) : (reportOk i s).tid2 = s.tid2 := rfl
@[simp] theorem reportOk_vMethod (i : Word16) (s : State) : (reportOk i s).vMethod = s.vMethod := rfl
@[simp] theorem reportOk_vClass (i : Word16) (s : State) : (reportOk i s).vClass = s.vClass := rfl
@[simp] theorem reportOk_vTid (i : Word16) (s : State) : (reportOk i s).vTid = s.vTid := rfl
@[simp] theorem reportOk_fpEn (i : Word16) (s : State) : (reportOk i s).fpEn = s.fpEn := rfl
@[simp] theorem reportOk_miEn (i : Word16) (s : State) : (reportOk i s).miEn = s.miEn := rfl
@[simp] theorem reportOk_outValid (i : Word16) (s : State) : (reportOk i s).outValid = s.outValid := rfl
@[simp] theorem reportOk_attr (i : Word16) (s : State) : (reportOk i s).attr = s.attr := rfl
@[simp] theorem reportOk_username (i : Word16) (s : State) : (reportOk i s).username = s.username := rfl
@[simp] theorem reportOk_realm (i : Word16) (s : State) : (reportOk i s).realm = s.realm := rfl
@[simp] theorem reportOk_password (i : Word16) (s : State) : (reportOk i s).password = s.password := rfl
@[simp] theorem reportOk_obuf (i : Word16) (s : State) : (reportOk i s).obuf = s.obuf := rfl
@[simp] theorem reportOk_olen (i : Word16) (s : State) : (reportOk i s).olen = s.olen := rfl
@[simp] theorem reportOk_wp (i : Word16) (s : State) : (reportOk i s).wp = s.wp := rfl
@[simp] theorem reportOk_phase (i : Word16) (s : State) : (reportOk i s).phase = s.phase := rfl
@[simp] theorem reportOk_result (i : Word16) (s : State) : (reportOk i s).result = resultOk := rfl
@[simp] theorem reportOk_info (i : Word16) (s : State) : (reportOk i s).info = i := rfl
@[simp] theorem reportOk_fpwd (i : Word16) (s : State) : (reportOk i s).fpwd = s.fpwd := rfl
@[simp] theorem reportOk_key (i : Word16) (s : State) : (reportOk i s).key = s.key := rfl
@[simp] theorem reportOk_digest (i : Word16) (s : State) : (reportOk i s).digest = s.digest := rfl
@[simp] theorem reportOk_crcv (i : Word16) (s : State) : (reportOk i s).crcv = s.crcv := rfl
@[simp] theorem reportOk_caps (i : Word16) (s : State) : (reportOk i s).caps = s.caps := rfl
@[simp] theorem reportOk_port (i : Word16) (s : State) : (reportOk i s).port = s.port := rfl
@[simp] theorem reportOk_portOut (i : Word16) (s : State) : (reportOk i s).portOut = .response (responseWord resultOk i) := rfl
@[simp] theorem reportOk_draws (i : Word16) (s : State) : (reportOk i s).draws = s.draws := rfl

/-! ### `raiseError` -/

@[simp] theorem raiseError_method (k : ErrorKind) (i : Word16) (s : State) : (raiseError k i s).method = s.method := rfl
@[simp] theorem raiseError_cls (k : ErrorKind) (i : Word16) (s : State) : (raiseError k i s).cls = s.cls := rfl
@[simp] theorem raiseError_tid0 (k : ErrorKind) (i : Word16) (s : State) : (raiseError k i s).tid0 = s.tid0 := rfl
@[simp] theorem raiseError_tid1 (k : ErrorKind) (i : Word16) (s : State) : (raiseError k i s).tid1 = s.tid1 := rfl
@[simp] theorem raiseError_tid2 (k : ErrorKind) (i : Word16) (s : State) : (raiseError k i s).tid2 = s.tid2 := rfl
@[simp] theorem raiseError_vMethod (k : ErrorKind) (i : Word16) (s : State) : (raiseError k i s).vMethod = s.vMethod := rfl
@[simp] theorem raiseError_vClass (k : ErrorKind) (i : Word16) (s : State) : (raiseError k i s).vClass = s.vClass := rfl
@[simp] theorem raiseError_vTid (k : ErrorKind) (i : Word16) (s : State) : (raiseError k i s).vTid = s.vTid := rfl
@[simp] theorem raiseError_fpEn (k : ErrorKind) (i : Word16) (s : State) : (raiseError k i s).fpEn = s.fpEn := rfl
@[simp] theorem raiseError_miEn (k : ErrorKind) (i : Word16) (s : State) : (raiseError k i s).miEn = s.miEn := rfl
@[simp] theorem raiseError_outValid (k : ErrorKind) (i : Word16) (s : State) : (raiseError k i s).outValid = s.outValid := rfl
@[simp] theorem raiseError_attr (k : ErrorKind) (i : Word16) (s : State) : (raiseError k i s).attr = s.attr := rfl
@[simp] theorem raiseError_username (k : ErrorKind) (i : Word16) (s : State) : (raiseError k i s).username = s.username := rfl
@[simp] theorem raiseError_realm (k : ErrorKind) (i : Word16) (s : State) : (raiseError k i s).realm = s.realm := rfl
@[simp] theorem raiseError_password (k : ErrorKind) (i : Word16) (s : State) : (raiseError k i s).password = s.password := rfl
@[simp] theorem raiseError_obuf (k : ErrorKind) (i : Word16) (s : State) : (raiseError k i s).obuf = s.obuf := rfl
@[simp] theorem raiseError_olen (k : ErrorKind) (i : Word16) (s : State) : (raiseError k i s).olen = s.olen := rfl
@[simp] theorem raiseError_wp (k : ErrorKind) (i : Word16) (s : State) : (raiseError k i s).wp = s.wp := rfl
@[simp] theorem raiseError_phase (k : ErrorKind) (i : Word16) (s : State) : (raiseError k i s).phase = .idle := rfl
@[simp] theorem raiseError_result (k : ErrorKind) (i : Word16) (s : State) : (raiseError k i s).result = errorCode k := rfl
@[simp] theorem raiseError_info (k : ErrorKind) (i : Word16) (s : State) : (raiseError k i s).info = i := rfl
@[simp] theorem raiseError_fpwd (k : ErrorKind) (i : Word16) (s : State) : (raiseError k i s).fpwd = s.fpwd := rfl
@[simp] theorem raiseError_key (k : ErrorKind) (i : Word16) (s : State) : (raiseError k i s).key = s.key := rfl
@[simp] theorem raiseError_digest (k : ErrorKind) (i : Word16) (s : State) : (raiseError k i s).digest = s.digest := rfl
@[simp] theorem raiseError_crcv (k : ErrorKind) (i : Word16) (s : State) : (raiseError k i s).crcv = s.crcv := rfl
@[simp] theorem raiseError_caps (k : ErrorKind) (i : Word16) (s : State) : (raiseError k i s).caps = s.caps := rfl
@[simp] theorem raiseError_port (k : ErrorKind) (i : Word16) (s : State) : (raiseError k i s).port = s.port := rfl
@[simp] theorem raiseError_portOut (k : ErrorKind) (i : Word16) (s : State) : (raiseError k i s).portOut = .response (responseWord (errorCode k) i) := rfl
@[simp] theorem raiseError_draws (k : ErrorKind) (i : Word16) (s : State) : (raiseError k i s).draws = s.draws := rfl

/-! ### `startOutput` -/

@[simp] theorem startOutput_method (s : State) : (startOutput s).method = s.method := rfl
@[simp] theorem startOutput_cls (s : State) : (startOutput s).cls = s.cls := rfl
@[simp] theorem startOutput_tid0 (s : State) : (startOutput s).tid0 = s.tid0 := rfl
@[simp] theorem startOutput_tid1 (s : State) : (startOutput s).tid1 = s.tid1 := rfl
@[simp] theorem startOutput_tid2 (s : State) : (startOutput s).tid2 = s.tid2 := rfl
@[simp] theorem startOutput_vMethod (s : State) : (startOutput s).vMethod = s.vMethod := rfl
@[simp] theorem startOutput_vClass (s : State) : (startOutput s).vClass = s.vClass := rfl
@[simp] theorem startOutput_vTid (s : State) : (startOutput s).vTid = s.vTid := rfl
@[simp] theorem startOutput_fpEn (s : State) : (startOutput s).fpEn = s.fpEn := rfl
@[simp] theorem startOutput_miEn (s : State) : (startOutput s).miEn = s.miEn := rfl
@[simp] theorem startOutput_outValid (s : State) : (startOutput s).outValid = false := rfl
@[simp] theorem startOutput_attr (s : State) : (startOutput s).attr = s.attr := rfl
@[simp] theorem startOutput_username (s : State) : (startOutput s).username = s.username := rfl
@[simp] theorem startOutput_realm (s : State) : (startOutput s).realm = s.realm := rfl
@[simp] theorem startOutput_password (s : State) : (startOutput s).password = s.password := rfl
@[simp] theorem startOutput_obuf (s : State) : (startOutput s).obuf = [] := rfl
@[simp] theorem startOutput_olen (s : State) : (startOutput s).olen = 0 := rfl
@[simp] theorem startOutput_wp (s : State) : (startOutput s).wp = s.wp := rfl
@[simp] theorem startOutput_phase (s : State) : (startOutput s).phase = s.phase := rfl
@[simp] theorem startOutput_result (s : State) : (startOutput s).result = s.result := rfl
@[simp] theorem startOutput_info (s : State) : (startOutput s).info = s.info := rfl
@[simp] theorem startOutput_fpwd (s : State) : (startOutput s).fpwd = s.fpwd := rfl
@[simp] theorem startOutput_key (s : State) : (startOutput s).key = s.key := rfl
@[simp] theorem startOutput_digest (s : State) : (startOutput s).digest = s.digest := rfl
@[simp] theorem startOutput_crcv (s : State) : (startOutput s).crcv = s.crcv := rfl
@[simp] theorem startOutput_caps (s : State) : (startOutput s).caps = s.caps := rfl
@[simp] theorem startOutput_port (s : State) : (startOutput s).port = s.port := rfl
@[simp] theorem startOutput_portOut (s : State) : (startOutput s).portOut = s.portOut := rfl
@[simp] theorem startOutput_draws (s : State) : (startOutput s).draws = s.draws := rfl

/-! ### `freeScratch` -/

@[simp] theorem freeScratch_method (s : State) : (freeScratch s).method = s.method := rfl
@[simp] theorem freeScratch_cls (s : State) : (freeScratch s).cls = s.cls := rfl
@[simp] theorem freeScratch_tid0 (s : State) : (freeScratch s).tid0 = s.tid0 := rfl
@[simp] theorem freeScratch_tid1 (s : State) : (freeScratch s).tid1 = s.tid1 := rfl
@[simp] theorem freeScratch_tid2 (s : State) : (freeScratch s).tid2 = s.tid2 := rfl
@[simp] theorem freeScratch_vMethod (s : State) : (freeScratch s).vMethod = s.vMethod := rfl
@[simp] theorem freeScratch_vClass (s : State) : (freeScratch s).vClass = s.vClass := rfl
@[simp] theorem freeScratch_vTid (s : State) : (freeScratch s).vTid = s.vTid := rfl
@[simp] theorem freeScratch_fpEn (s : State) : (freeScratch s).fpEn = s.fpEn := rfl
@[simp] theorem freeScratch_miEn (s : State) : (freeScratch s).miEn = s.miEn := rfl
@[simp] theorem freeScratch_outValid (s : State) : (freeScratch s).outValid = s.outValid := rfl
@[simp] theorem freeScratch_attr (s : State) : (freeScratch s).attr = s.attr := rfl
@[simp] theorem freeScratch_username (s : State) : (freeScratch s).username = s.username := rfl
@[simp] theorem freeScratch_realm (s : State) : (freeScratch s).realm = s.realm := rfl
@[simp] theorem freeScratch_password (s : State) : (freeScratch s).password = s.password := rfl
@[simp] theorem freeScratch_obuf (s : State) : (freeScratch s).obuf = s.obuf := rfl
@[simp] theorem freeScratch_olen (s : State) : (freeScratch s).olen = s.olen := rfl
@[simp] theorem freeScratch_wp (s : State) : (freeScratch s).wp = s.wp := rfl
@[simp] theorem freeScratch_phase (s : State) : (freeScratch s).phase = s.phase := rfl
@[simp] theorem freeScratch_result (s : State) : (freeScratch s).result = s.result := rfl
@[simp] theorem freeScratch_info (s : State) : (freeScratch s).info = s.info := rfl
@[simp] theorem freeScratch_fpwd (s : State) : (freeScratch s).fpwd = (Config.freeFpwd s.draws).take (credMax s.caps) := rfl
@[simp] theorem freeScratch_key (s : State) : (freeScratch s).key = (Config.freeKey s.draws).take (max (credMax s.caps) 16) := rfl
@[simp] theorem freeScratch_digest (s : State) : (freeScratch s).digest = Config.freeDigest s.draws := rfl
@[simp] theorem freeScratch_crcv (s : State) : (freeScratch s).crcv = Config.freeCrcv s.draws := rfl
@[simp] theorem freeScratch_caps (s : State) : (freeScratch s).caps = s.caps := rfl
@[simp] theorem freeScratch_port (s : State) : (freeScratch s).port = s.port := rfl
@[simp] theorem freeScratch_portOut (s : State) : (freeScratch s).portOut = s.portOut := rfl
@[simp] theorem freeScratch_draws (s : State) : (freeScratch s).draws = s.draws + 1 := rfl

/-! ### `finishOutput` -/

@[simp] theorem finishOutput_method (s : State) : (finishOutput s).method = s.method := rfl
@[simp] theorem finishOutput_cls (s : State) : (finishOutput s).cls = s.cls := rfl
@[simp] theorem finishOutput_tid0 (s : State) : (finishOutput s).tid0 = s.tid0 := rfl
@[simp] theorem finishOutput_tid1 (s : State) : (finishOutput s).tid1 = s.tid1 := rfl
@[simp] theorem finishOutput_tid2 (s : State) : (finishOutput s).tid2 = s.tid2 := rfl
@[simp] theorem finishOutput_vMethod (s : State) : (finishOutput s).vMethod = s.vMethod := rfl
@[simp] theorem finishOutput_vClass (s : State) : (finishOutput s).vClass = s.vClass := rfl
@[simp] theorem finishOutput_vTid (s : State) : (finishOutput s).vTid = s.vTid := rfl
@[simp] theorem finishOutput_fpEn (s : State) : (finishOutput s).fpEn = s.fpEn := rfl
@[simp] theorem finishOutput_miEn (s : State) : (finishOutput s).miEn = s.miEn := rfl
@[simp] theorem finishOutput_outValid (s : State) : (finishOutput s).outValid = true := rfl
@[simp] theorem finishOutput_attr (s : State) : (finishOutput s).attr = s.attr := rfl
@[simp] theorem finishOutput_username (s : State) : (finishOutput s).username = s.username := rfl
@[simp] theorem finishOutput_realm (s : State) : (finishOutput s).realm = s.realm := rfl
@[simp] theorem finishOutput_password (s : State) : (finishOutput s).password = s.password := rfl
@[simp] theorem finishOutput_obuf (s : State) : (finishOutput s).obuf = s.obuf := rfl
@[simp] theorem finishOutput_olen (s : State) : (finishOutput s).olen = s.wp := rfl
@[simp] theorem finishOutput_wp (s : State) : (finishOutput s).wp = s.wp := rfl
@[simp] theorem finishOutput_phase (s : State) : (finishOutput s).phase = .idle := rfl
@[simp] theorem finishOutput_result (s : State) : (finishOutput s).result = s.result := rfl
@[simp] theorem finishOutput_info (s : State) : (finishOutput s).info = s.info := rfl
@[simp] theorem finishOutput_fpwd (s : State) : (finishOutput s).fpwd = s.fpwd := rfl
@[simp] theorem finishOutput_key (s : State) : (finishOutput s).key = s.key := rfl
@[simp] theorem finishOutput_digest (s : State) : (finishOutput s).digest = s.digest := rfl
@[simp] theorem finishOutput_crcv (s : State) : (finishOutput s).crcv = s.crcv := rfl
@[simp] theorem finishOutput_caps (s : State) : (finishOutput s).caps = s.caps := rfl
@[simp] theorem finishOutput_port (s : State) : (finishOutput s).port = s.port := rfl
@[simp] theorem finishOutput_portOut (s : State) : (finishOutput s).portOut = s.portOut := rfl
@[simp] theorem finishOutput_draws (s : State) : (finishOutput s).draws = s.draws := rfl

/-! ### `wipe` -/

@[simp] theorem wipe_method (s : State) : (wipe s).method = State.reset.method := rfl
@[simp] theorem wipe_cls (s : State) : (wipe s).cls = State.reset.cls := rfl
@[simp] theorem wipe_tid0 (s : State) : (wipe s).tid0 = State.reset.tid0 := rfl
@[simp] theorem wipe_tid1 (s : State) : (wipe s).tid1 = State.reset.tid1 := rfl
@[simp] theorem wipe_tid2 (s : State) : (wipe s).tid2 = State.reset.tid2 := rfl
@[simp] theorem wipe_vMethod (s : State) : (wipe s).vMethod = State.reset.vMethod := rfl
@[simp] theorem wipe_vClass (s : State) : (wipe s).vClass = State.reset.vClass := rfl
@[simp] theorem wipe_vTid (s : State) : (wipe s).vTid = State.reset.vTid := rfl
@[simp] theorem wipe_fpEn (s : State) : (wipe s).fpEn = State.reset.fpEn := rfl
@[simp] theorem wipe_miEn (s : State) : (wipe s).miEn = State.reset.miEn := rfl
@[simp] theorem wipe_outValid (s : State) : (wipe s).outValid = State.reset.outValid := rfl
@[simp] theorem wipe_attr (s : State) : (wipe s).attr = State.reset.attr := rfl
@[simp] theorem wipe_username (s : State) : (wipe s).username = State.reset.username := rfl
@[simp] theorem wipe_realm (s : State) : (wipe s).realm = State.reset.realm := rfl
@[simp] theorem wipe_password (s : State) : (wipe s).password = State.reset.password := rfl
@[simp] theorem wipe_obuf (s : State) : (wipe s).obuf = State.reset.obuf := rfl
@[simp] theorem wipe_olen (s : State) : (wipe s).olen = State.reset.olen := rfl
@[simp] theorem wipe_wp (s : State) : (wipe s).wp = State.reset.wp := rfl
@[simp] theorem wipe_phase (s : State) : (wipe s).phase = State.reset.phase := rfl
@[simp] theorem wipe_result (s : State) : (wipe s).result = State.reset.result := rfl
@[simp] theorem wipe_info (s : State) : (wipe s).info = State.reset.info := rfl
@[simp] theorem wipe_fpwd (s : State) : (wipe s).fpwd = State.reset.fpwd := rfl
@[simp] theorem wipe_key (s : State) : (wipe s).key = State.reset.key := rfl
@[simp] theorem wipe_digest (s : State) : (wipe s).digest = State.reset.digest := rfl
@[simp] theorem wipe_crcv (s : State) : (wipe s).crcv = State.reset.crcv := rfl
@[simp] theorem wipe_caps (s : State) : (wipe s).caps = s.caps := rfl
@[simp] theorem wipe_port (s : State) : (wipe s).port = s.port := rfl
@[simp] theorem wipe_portOut (s : State) : (wipe s).portOut = State.reset.portOut := rfl
@[simp] theorem wipe_draws (s : State) : (wipe s).draws = s.draws := rfl

/-! ### The state after reset -/

@[simp] theorem reset_method : State.reset.method = 0 := rfl
@[simp] theorem reset_cls : State.reset.cls = 0 := rfl
@[simp] theorem reset_tid0 : State.reset.tid0 = 0 := rfl
@[simp] theorem reset_tid1 : State.reset.tid1 = 0 := rfl
@[simp] theorem reset_tid2 : State.reset.tid2 = 0 := rfl
@[simp] theorem reset_vMethod : State.reset.vMethod = false := rfl
@[simp] theorem reset_vClass : State.reset.vClass = false := rfl
@[simp] theorem reset_vTid : State.reset.vTid = false := rfl
@[simp] theorem reset_fpEn : State.reset.fpEn = false := rfl
@[simp] theorem reset_miEn : State.reset.miEn = false := rfl
@[simp] theorem reset_outValid : State.reset.outValid = false := rfl
@[simp] theorem reset_attr : State.reset.attr = [] := rfl
@[simp] theorem reset_username : State.reset.username = [] := rfl
@[simp] theorem reset_realm : State.reset.realm = [] := rfl
@[simp] theorem reset_password : State.reset.password = [] := rfl
@[simp] theorem reset_obuf : State.reset.obuf = [] := rfl
@[simp] theorem reset_olen : State.reset.olen = 0 := rfl
@[simp] theorem reset_wp : State.reset.wp = 0 := rfl
@[simp] theorem reset_phase : State.reset.phase = .idle := rfl
@[simp] theorem reset_result : State.reset.result = 0x00 := rfl
@[simp] theorem reset_info : State.reset.info = 0x0000 := rfl
@[simp] theorem reset_fpwd : State.reset.fpwd = [] := rfl
@[simp] theorem reset_key : State.reset.key = [] := rfl
@[simp] theorem reset_digest : State.reset.digest = Vector.replicate 20 0 := rfl
@[simp] theorem reset_crcv : State.reset.crcv = 0 := rfl
@[simp] theorem reset_caps : State.reset.caps = platformCapacities := rfl
@[simp] theorem reset_port : State.reset.port = [] := rfl
@[simp] theorem reset_portOut : State.reset.portOut = .nothing := rfl
@[simp] theorem reset_draws : State.reset.draws = 0 := rfl

end Sys2Proof.Machine
end

