-- ==== Sys2Proof/Laws/Ops.lean ====
section
/-!
SUPPORT. For each shared operation, everything it can do: the insertion into the attribute store, the access primitives
of the output buffer, the size functions.
-/

namespace Sys2Proof.Machine

/-! ### Byte strings and sizes -/

@[simp] theorem length_be16 (v : Word16) : (be16 v).length = 2 := rfl
@[simp] theorem length_be32 (v : Word32) : (be32 v).length = 4 := rfl

theorem padding_lt (n : Nat) : padding n < 4 := by unfold padding; omega

theorem add_padding_mod (n : Nat) : (n + padding n) % 4 = 0 := by unfold padding; omega

theorem attrsize_mod (v : Bytes) : attrsize v % 4 = 0 := by
  have := add_padding_mod v.length
  unfold attrsize; omega

theorem bodySize_mod (l : List Attribute) : bodySize l % 4 = 0 := by
  induction l with
  | nil => rfl
  | cons a l ih => have := attrsize_mod a.value; simp only [bodySize]; omega

theorem bodySize_append (l m : List Attribute) : bodySize (l ++ m) = bodySize l + bodySize m := by
  induction l with
  | nil => simp [bodySize]
  | cons a l ih => simp only [List.cons_append, bodySize, ih]; omega

theorem bodyMax_le (c : Capacities) : bodyMax c ≤ 65500 := by
  have := c.bodyWords.isLt; unfold bodyMax; omega

theorem bodyMax_mod (c : Capacities) : bodyMax c % 4 = 0 := by unfold bodyMax; omega

theorem credMax_le (c : Capacities) : credMax c ≤ 65535 := by
  have := c.credWidth.isLt; unfold credMax; omega

theorem obufBytes_le (c : Capacities) : obufBytes c ≤ 65552 := by
  have := bodyMax_le c; unfold obufBytes; omega

@[simp] theorem length_wireHeader (s : State) (l : Nat) : (wireHeader s l).length = 20 := by simp [wireHeader]

@[simp] theorem length_wireAttribute (a : Attribute) : (wireAttribute a).length = attrsize a.value := by
  simp [wireAttribute, attrsize]; omega

@[simp] theorem length_wireAttributes (l : List Attribute) : (wireAttributes l).length = bodySize l := by
  induction l with
  | nil => rfl
  | cons a l ih => simp_all [wireAttributes, bodySize]

@[simp] theorem length_wireIntegrity (h : Primitives) (k : Bytes) (s : State) : (wireIntegrity h k s).length = 24 := by
  simp [wireIntegrity]

@[simp] theorem length_wireFingerprint (h : Primitives) (k : Bytes) (s : State) : (wireFingerprint h k s).length = 8 := by
  simp [wireFingerprint]

theorem length_wireMessage (h : Primitives) (k : Bytes) (s : State) :
    (wireMessage h k s).length = 20 + finalLength s := by
  cases hm : s.miEn <;> cases hf : s.fpEn <;>
    simp [wireMessage, wireBody, finalLength, hm, hf]

/-! ### The attribute store -/

theorem hasType_iff (t : Word16) (l : List Attribute) : hasType t l = true ↔ ∃ a ∈ l, a.code = t := by
  simp [hasType]

theorem hasType_eq_false_iff (t : Word16) (l : List Attribute) : hasType t l = false ↔ ∀ a ∈ l, a.code ≠ t := by
  simp [hasType]

theorem isProtected_iff (t : Word16) : isProtected t = true ↔ t = 0x0008 ∨ t = 0x8028 := by
  simp [isProtected, attrMessageIntegrity, attrFingerprint]

/-- A present type is ignored (R161). -/
theorem storeInsert_present {c : Capacities} {t : Word16} {v : Bytes} {l : List Attribute} (h : hasType t l = true) :
    storeInsert c t v l = .ignored := by simp [storeInsert, h]

/-- A new type that fits goes to the end of the list (R162). -/
theorem storeInsert_fits {c : Capacities} {t : Word16} {v : Bytes} {l : List Attribute} (h : hasType t l = false)
    (hf : bodySize l + attrsize v ≤ bodyMax c) : storeInsert c t v l = .inserted (l ++ [⟨t, v⟩]) := by
  simp [storeInsert, h]; omega

/-- A new type that does not fit is not stored (R163). -/
theorem storeInsert_full {c : Capacities} {t : Word16} {v : Bytes} {l : List Attribute} (h : hasType t l = false)
    (hf : bodyMax c < bodySize l + attrsize v) : storeInsert c t v l = .full := by
  simp [storeInsert, h, hf]

/-- Everything `insert` can answer (R160). -/
theorem storeInsert_cases (c : Capacities) (t : Word16) (v : Bytes) (l : List Attribute) :
    (storeInsert c t v l = .ignored ∧ hasType t l = true) ∨
    (storeInsert c t v l = .full ∧ hasType t l = false ∧ bodyMax c < bodySize l + attrsize v) ∨
    (storeInsert c t v l = .inserted (l ++ [⟨t, v⟩]) ∧ hasType t l = false ∧ bodySize l + attrsize v ≤ bodyMax c) := by
  by_cases h : hasType t l = true
  · exact .inl ⟨storeInsert_present h, h⟩
  · simp only [Bool.not_eq_true] at h
    by_cases hf : bodyMax c < bodySize l + attrsize v
    · exact .inr (.inl ⟨storeInsert_full h hf, h, hf⟩)
    · exact .inr (.inr ⟨storeInsert_fits h (by omega), h, by omega⟩)

/-- Everything the shared end of the attribute commands can do. -/
theorem insertAttribute_cases (t : Word16) (v : Bytes) (s : State) :
    (insertAttribute t v s = reportOk 0 s ∧ hasType t s.attr = true) ∨
    (insertAttribute t v s = raiseError .capacityExceeded 0 s ∧ hasType t s.attr = false
      ∧ bodyMax s.caps < bodySize s.attr + attrsize v) ∨
    (insertAttribute t v s = reportOk 0 { s with attr := s.attr ++ [⟨t, v⟩] } ∧ hasType t s.attr = false
      ∧ bodySize s.attr + attrsize v ≤ bodyMax s.caps) := by
  rcases storeInsert_cases s.caps t v s.attr with ⟨h, h1⟩ | ⟨h, h1⟩ | ⟨h, h1⟩ <;> simp [insertAttribute, h, h1]

/-- Everything the attribute half of the credential commands can do. -/
theorem insertCredential_cases (t : Word16) (p : Bytes) (s : State) :
    (insertCredential t p s = none ∧ (credMax s.caps < p.length ∨
      (hasType t s.attr = false ∧ bodyMax s.caps < bodySize s.attr + attrsize p))) ∨
    (insertCredential t p s = some s ∧ p.length ≤ credMax s.caps ∧ hasType t s.attr = true) ∨
    (insertCredential t p s = some { s with attr := s.attr ++ [⟨t, p⟩] } ∧ p.length ≤ credMax s.caps
      ∧ hasType t s.attr = false ∧ bodySize s.attr + attrsize p ≤ bodyMax s.caps) := by
  by_cases hc : credMax s.caps < p.length
  · simp [insertCredential, hc]
  · rcases storeInsert_cases s.caps t p s.attr with ⟨h, h1⟩ | ⟨h, h1⟩ | ⟨h, h1⟩ <;>
      simp [insertCredential, h, h1, hc] <;> omega

/-! ### The access primitives -/

/-- The one inversion lemma of the writes: a write that succeeds changes only `OBUF`, below `OBUF_BYTES` (R67, R68). -/
theorem memWriteBytes_ok {a : Nat} {bs : Bytes} {s t : State} (h : memWriteBytes a bs s = .ok t) :
    a + bs.length ≤ obufBytes s.caps ∧ t = { s with obuf := obufWriteBytes s.obuf a bs } := by
  unfold memWriteBytes at h
  split at h
  · next hb => exact ⟨hb, by cases h; rfl⟩
  · cases h

/-- A write keeps the canonical form of `OBUF` (R67, R68). -/
theorem memWriteBytes_wf {a : Nat} {bs : Bytes} {s t : State} (h : memWriteBytes a bs s = .ok t)
    (hs : Memory.wf s = true) : Memory.wf t = true := by
  obtain ⟨hb, rfl⟩ := memWriteBytes_ok h
  exact obufWfFrom_writeBytes bs hs (Nat.zero_le a) hb

/-- The buffer after reset is in canonical form (R40). -/
theorem reset_wf : Memory.wf State.reset = true := rfl

/-- A write at the end of a buffer that holds exactly `b` appends (R68). -/
theorem memWriteBytes_end {s : State} {b : Bytes} (bs : Bytes) (ho : s.obuf = obufOfBytes 0 b)
    (hb : b.length + bs.length ≤ obufBytes s.caps) :
    memWriteBytes b.length bs s = .ok { s with obuf := obufOfBytes 0 (b ++ bs) } := by
  have := obufWriteBytes_ofBytes_end 0 b bs
  rw [Nat.zero_add] at this
  simp [memWriteBytes, hb, ho, this]

/-- The same, of a state written as an update of `OBUF`. -/
theorem memWriteBytes_update (s : State) (b bs : Bytes) (n : Nat) (hn : b.length = n)
    (hb : n + bs.length ≤ obufBytes s.caps) :
    memWriteBytes n bs { s with obuf := obufOfBytes 0 b } = .ok { s with obuf := obufOfBytes 0 (b ++ bs) } := by
  subst hn; exact memWriteBytes_end bs rfl hb

/-- A write inside a buffer that holds exactly `b` overwrites (R67, R68). -/
theorem memWriteBytes_over {s : State} {b : Bytes} (k : Nat) (bs : Bytes) (ho : s.obuf = obufOfBytes 0 b)
    (hk : k + bs.length ≤ b.length) (hb : b.length ≤ obufBytes s.caps) :
    memWriteBytes k bs s = .ok { s with obuf := obufOfBytes 0 (b.take k ++ bs ++ b.drop (k + bs.length)) } := by
  have := obufWriteBytes_ofBytes 0 b k bs hk
  rw [Nat.zero_add] at this
  simp only [memWriteBytes, ho, this]
  rw [if_pos (by omega)]

/-- Reading all of a buffer that holds exactly `b` (R69). -/
theorem memRead_all {s : State} {b : Bytes} (ho : s.obuf = obufOfBytes 0 b) : memRead 0 b.length s = .ok b := by
  have := obufReadBytes_ofBytes 0 b 0 b.length (by omega)
  simp only [Nat.add_zero] at this
  simp [memRead, ho, this]

end Sys2Proof.Machine
end

