-- ==== Sys2Proof/Laws/PerInstr.lean ====
section
/-!
SUPPORT. Statements made of each command, as syntax. The family `OperandsAreLegal`: the immediate and the payload the
encoder writes for a well-formed command are legal for its opcode (spec/30_encoding.md R94, R95 tests 3 and 4), and the
payload's length fits the field `B`.
-/

namespace Sys2Proof.Laws.OperandsAreLegal

/-- The operands of the encoded command are legal operands of its opcode. -/
def Statement (i : Instr) : Prop :=
  i.wellFormed = true →
    immediateLegal (opcodeOf i) (immediateOf i) = true
    ∧ lengthLegal (opcodeOf i) (BitVec.ofNat 16 (payloadOf i).length) = true
    ∧ (payloadOf i).length ≤ maxPayload

/-- A command without operands. -/
theorem of_none {i : Instr} (ha : immediateLegal (opcodeOf i) (immediateOf i) = true)
    (hb : lengthLegal (opcodeOf i) 0 = true) (hp : payloadOf i = []) : Statement i :=
  fun _ => by rw [hp]; exact ⟨ha, hb, by simp⟩

/-- A command whose payload may have any length. -/
theorem of_any {i : Instr} (ha : immediateLegal (opcodeOf i) (immediateOf i) = true)
    (hb : ∀ b, lengthLegal (opcodeOf i) b = true) (hp : i.wellFormed = true → (payloadOf i).length ≤ maxPayload) :
    Statement i :=
  fun h => ⟨ha, hb _, hp h⟩

theorem clear : Statement .clear := of_none rfl rfl rfl

theorem setMethod (m : Method) : Statement (.setMethod m) := by
  refine of_none ?_ rfl rfl
  simp only [opcodeOf, immediateOf, immediateLegal, beq_iff_eq]
  apply BitVec.eq_of_getLsbD_eq
  intro i hi
  simp

theorem setClass (c : MsgClass) : Statement (.setClass c) := by
  refine of_none ?_ rfl rfl
  revert c; decide

theorem setTid (w0 w1 w2 : Word32) : Statement (.setTid w0 w1 w2) := fun _ => ⟨rfl, rfl, by simp [payloadOf, be32, maxPayload]⟩

theorem setFpEn (f : Bool) : Statement (.setFpEn f) := by cases f <;> exact of_none rfl rfl rfl

theorem setMiEn (f : Bool) : Statement (.setMiEn f) := by cases f <;> exact of_none rfl rfl rfl

theorem setPassword (p : Bytes) : Statement (.setPassword p) :=
  of_any rfl (fun _ => rfl) (by simp [Instr.wellFormed, payloadOf])

theorem getStatus : Statement .getStatus := of_none rfl rfl rfl

theorem setAttrRequestedTransport : Statement .setAttrRequestedTransport := of_none rfl rfl rfl

theorem setAttrLifetime (n : Word32) : Statement (.setAttrLifetime n) := fun _ => ⟨rfl, rfl, by simp [payloadOf, be32, maxPayload]⟩

theorem setAttrUsername (p : Bytes) : Statement (.setAttrUsername p) :=
  of_any rfl (fun _ => rfl) (by simp [Instr.wellFormed, payloadOf])

theorem setAttrRealm (p : Bytes) : Statement (.setAttrRealm p) :=
  of_any rfl (fun _ => rfl) (by simp [Instr.wellFormed, payloadOf])

theorem setAttrNonce (p : Bytes) : Statement (.setAttrNonce p) :=
  of_any rfl (fun _ => rfl) (by simp [Instr.wellFormed, payloadOf])

theorem addAttr (t : Word16) (v : Bytes) : Statement (.addAttr t v) :=
  of_any rfl (fun _ => rfl) (by simp [Instr.wellFormed, payloadOf])

theorem serialize : Statement .serialize := of_none rfl rfl rfl

end Sys2Proof.Laws.OperandsAreLegal
end

