-- ==== Sys2Proof/Laws/Serialize.lean ====
section
/-!
SUPPORT. What each phase of `SERIALIZE` does: its equation on a buffer that holds exactly what the phases before it wrote,
and its frame (a phase changes nothing but the elements named).
-/

namespace Sys2Proof.Machine

/-! ### Equations -/

/-- `write_header` on an empty buffer writes the 20 header bytes with `L0` = `body(ATTR)` (R203). -/
theorem writeHeader_eq (s : State) (ho : s.obuf = []) :
    writeHeader s = .ok { s with obuf := obufOfBytes 0 (wireHeader s (bodySize s.attr)), wp := 20 } := by
  have hn : 20 ≤ obufBytes s.caps := by unfold obufBytes; omega
  have h0 := memWriteBytes_end (s := s) (b := []) (be16 (packType s.method s.cls)) ho (by simp; omega)
  simp only [List.length_nil] at h0
  simp only [writeHeader, memWrite16, memWrite32, bind, Except.bind, pure, Except.pure, h0]
  rw [memWriteBytes_update s]; simp only
  rw [memWriteBytes_update s]; simp only
  rw [memWriteBytes_update s]; simp only
  rw [memWriteBytes_update s]; simp only
  rw [memWriteBytes_update s]
  · simp [wireHeader]
  all_goals first | omega | (simp; done) | (simp; omega)

/-- `emit_attr` appends the framed attribute (R194). -/
theorem emitAttr_eq (a : Attribute) (s : State) (b : Bytes) (ho : s.obuf = obufOfBytes 0 b) (hw : s.wp.toNat = b.length)
    (hb : b.length + attrsize a.value ≤ obufBytes s.caps) :
    emitAttr a s = .ok { s with
      obuf := obufOfBytes 0 (b ++ wireAttribute a)
      wp := BitVec.ofNat 17 (b.length + attrsize a.value) } := by
  have hs : attrsize a.value = 4 + a.value.length + padding a.value.length := rfl
  have h0 := memWriteBytes_end (be16 a.code) ho (by simp; omega)
  simp only [emitAttr, memWrite16, memZero, bind, Except.bind, pure, Except.pure, hw, h0]
  rw [memWriteBytes_update s]; simp only
  rw [memWriteBytes_update s]; simp only
  rw [memWriteBytes_update s]
  · simp [wireAttribute]
  all_goals first | omega | (simp; done) | (simp; omega)

/-- Phase `ATTRS` appends the framed attributes in list order (R204). -/
theorem emitAttrs_eq (l : List Attribute) (s : State) (b : Bytes) (ho : s.obuf = obufOfBytes 0 b)
    (hw : s.wp = BitVec.ofNat 17 b.length) (hb : b.length + bodySize l ≤ obufBytes s.caps) :
    emitAttrs l s = .ok { s with
      obuf := obufOfBytes 0 (b ++ wireAttributes l)
      wp := BitVec.ofNat 17 (b.length + bodySize l) } := by
  have hn := obufBytes_le s.caps
  induction l generalizing s b with
  | nil => simp [emitAttrs, wireAttributes, bodySize, ← ho, ← hw]
  | cons a l ih =>
    simp only [bodySize] at hb
    simp only [emitAttrs, bind, Except.bind]
    rw [emitAttr_eq a s b ho (by rw [hw, BitVec.toNat_ofNat, Nat.mod_eq_of_lt (by omega)]) (by omega)]
    have h := ih { s with
      obuf := obufOfBytes 0 (b ++ wireAttribute a)
      wp := BitVec.ofNat 17 (b.length + attrsize a.value) } (b ++ wireAttribute a) rfl (by simp) (by simp; omega) hn
    simp only [h]
    simp [wireAttributes, bodySize, Nat.add_assoc]

/-- Rewriting the Message Length of a message (R197). -/
theorem wireHeader_rewrite (s : State) (l l' : Nat) (r : Bytes) :
    (wireHeader s l ++ r).take 2 ++ be16 (BitVec.ofNat 16 l') ++ (wireHeader s l ++ r).drop (2 + 2)
      = wireHeader s l' ++ r := rfl

/-- `append_integrity` (R235): the length counts the attribute before the hash reads the buffer, and the attribute is
appended. -/
theorem appendIntegrity_eq (h : Primitives) (s : State) (l : Nat) (r : Bytes)
    (ho : s.obuf = obufOfBytes 0 (wireHeader s l ++ r)) (hw : s.wp = BitVec.ofNat 17 (20 + r.length))
    (hb : 20 + r.length + 24 ≤ obufBytes s.caps) :
    appendIntegrity h s =
      let d := h.hmacSha1 s.key (wireHeader s (r.length + 24) ++ r)
      .ok { s with
        obuf := obufOfBytes 0 (wireHeader s (r.length + 24) ++ r
          ++ (be16 attrMessageIntegrity ++ be16 0x0014 ++ d.toList))
        digest := d
        wp := BitVec.ofNat 17 (20 + r.length + 24) } := by
  have hn := obufBytes_le s.caps
  have hp : s.wp.toNat = 20 + r.length := by rw [hw, BitVec.toNat_ofNat, Nat.mod_eq_of_lt (by omega)]
  have h0 := memWriteBytes_over 2 (be16 (BitVec.ofNat 16 (r.length + 24))) ho (by simp; omega) (by simp; omega)
  simp only [length_be16, wireHeader_rewrite] at h0
  have h1 := memRead_all (s := { s with obuf := obufOfBytes 0 (wireHeader s (r.length + 24) ++ r) }) rfl
  simp only [List.length_append, length_wireHeader] at h1
  simp only [appendIntegrity, memWrite16, bind, Except.bind, pure, Except.pure, hp,
    show 20 + r.length - 20 + 24 = r.length + 24 by omega, h0, h1]
  generalize h.hmacSha1 s.key (wireHeader s (r.length + 24) ++ r) = d
  rw [memWriteBytes_update { s with digest := d }]; simp only
  rw [memWriteBytes_update { s with digest := d }]; simp only
  rw [memWriteBytes_update { s with digest := d }]
  · simp
  all_goals first | omega | (simp; done) | (simp; omega)

/-- `append_fingerprint` (R238): the length counts the attribute before the CRC reads the buffer, and the attribute is
appended. -/
theorem appendFingerprint_eq (h : Primitives) (s : State) (l : Nat) (r : Bytes)
    (ho : s.obuf = obufOfBytes 0 (wireHeader s l ++ r)) (hw : s.wp = BitVec.ofNat 17 (20 + r.length))
    (hb : 20 + r.length + 8 ≤ obufBytes s.caps) :
    appendFingerprint h s =
      let c := h.crc32 (wireHeader s (r.length + 8) ++ r)
      .ok { s with
        obuf := obufOfBytes 0 (wireHeader s (r.length + 8) ++ r
          ++ (be16 attrFingerprint ++ be16 0x0004 ++ be32 (c ^^^ fingerprintXor)))
        crcv := c
        wp := BitVec.ofNat 17 (20 + r.length + 8) } := by
  have hn := obufBytes_le s.caps
  have hp : s.wp.toNat = 20 + r.length := by rw [hw, BitVec.toNat_ofNat, Nat.mod_eq_of_lt (by omega)]
  have h0 := memWriteBytes_over 2 (be16 (BitVec.ofNat 16 (r.length + 8))) ho (by simp; omega) (by simp; omega)
  simp only [length_be16, wireHeader_rewrite] at h0
  have h1 := memRead_all (s := { s with obuf := obufOfBytes 0 (wireHeader s (r.length + 8) ++ r) }) rfl
  simp only [List.length_append, length_wireHeader] at h1
  simp only [appendFingerprint, memWrite16, memWrite32, bind, Except.bind, pure, Except.pure, hp,
    show 20 + r.length - 20 + 8 = r.length + 8 by omega, h0, h1]
  generalize h.crc32 (wireHeader s (r.length + 8) ++ r) = c
  rw [memWriteBytes_update { s with crcv := c }]; simp only
  rw [memWriteBytes_update { s with crcv := c }]; simp only
  rw [memWriteBytes_update { s with crcv := c }]
  · simp
  all_goals first | omega | (simp; done) | (simp; omega)

/-! ### Frames -/

theorem bind_ok {α β ε : Type} {x : Except ε α} {f : α → Except ε β} {b : β} (h : x >>= f = .ok b) :
    ∃ a, x = .ok a ∧ f a = .ok b := by
  cases x with
  | error e => cases h
  | ok a => exact ⟨a, rfl, h⟩

/-- A write changes only `OBUF`. -/
theorem memWriteBytes_frame {a : Nat} {bs : Bytes} {s t : State} (h : memWriteBytes a bs s = .ok t) :
    ∃ o, t = { s with obuf := o } := ⟨_, (memWriteBytes_ok h).2⟩

/-- `write_header` changes only `OBUF` and `WP` (R203). -/
theorem writeHeader_frame {s t : State} (h : writeHeader s = .ok t) : ∃ o w, t = { s with obuf := o, wp := w } := by
  unfold writeHeader memWrite16 memWrite32 at h
  obtain ⟨s1, h1, h⟩ := bind_ok h
  obtain ⟨s2, h2, h⟩ := bind_ok h
  obtain ⟨s3, h3, h⟩ := bind_ok h
  obtain ⟨s4, h4, h⟩ := bind_ok h
  obtain ⟨s5, h5, h⟩ := bind_ok h
  obtain ⟨s6, h6, h⟩ := bind_ok h
  obtain ⟨o1, rfl⟩ := memWriteBytes_frame h1
  obtain ⟨o2, rfl⟩ := memWriteBytes_frame h2
  obtain ⟨o3, rfl⟩ := memWriteBytes_frame h3
  obtain ⟨o4, rfl⟩ := memWriteBytes_frame h4
  obtain ⟨o5, rfl⟩ := memWriteBytes_frame h5
  obtain ⟨o6, rfl⟩ := memWriteBytes_frame h6
  cases h
  exact ⟨_, _, rfl⟩

/-- `emit_attr` changes only `OBUF` and `WP` (R194). -/
theorem emitAttr_frame {a : Attribute} {s t : State} (h : emitAttr a s = .ok t) :
    ∃ o w, t = { s with obuf := o, wp := w } := by
  unfold emitAttr memWrite16 memZero at h
  obtain ⟨s1, h1, h⟩ := bind_ok h
  obtain ⟨s2, h2, h⟩ := bind_ok h
  obtain ⟨s3, h3, h⟩ := bind_ok h
  obtain ⟨s4, h4, h⟩ := bind_ok h
  obtain ⟨o1, rfl⟩ := memWriteBytes_frame h1
  obtain ⟨o2, rfl⟩ := memWriteBytes_frame h2
  obtain ⟨o3, rfl⟩ := memWriteBytes_frame h3
  obtain ⟨o4, rfl⟩ := memWriteBytes_frame h4
  cases h
  exact ⟨_, _, rfl⟩

/-- Phase `ATTRS` changes only `OBUF` and `WP` (R204). -/
theorem emitAttrs_frame {l : List Attribute} {s t : State} (h : emitAttrs l s = .ok t) :
    ∃ o w, t = { s with obuf := o, wp := w } := by
  induction l generalizing s with
  | nil => cases h; exact ⟨_, _, rfl⟩
  | cons a l ih =>
    obtain ⟨s1, h1, h⟩ := bind_ok h
    obtain ⟨o1, w1, rfl⟩ := emitAttr_frame h1
    obtain ⟨o2, w2, rfl⟩ := ih h
    exact ⟨_, _, rfl⟩

/-- `append_integrity` changes only `OBUF`, `WP` and `DIGEST` (R235). -/
theorem appendIntegrity_frame {p : Primitives} {s t : State} (h : appendIntegrity p s = .ok t) :
    ∃ o w d, t = { s with obuf := o, wp := w, digest := d } := by
  unfold appendIntegrity memWrite16 at h
  obtain ⟨s1, h1, h⟩ := bind_ok h
  obtain ⟨d, -, h⟩ := bind_ok h
  obtain ⟨s2, h2, h⟩ := bind_ok h
  obtain ⟨s3, h3, h⟩ := bind_ok h
  obtain ⟨s4, h4, h⟩ := bind_ok h
  obtain ⟨o1, rfl⟩ := memWriteBytes_frame h1
  obtain ⟨o2, rfl⟩ := memWriteBytes_frame h2
  obtain ⟨o3, rfl⟩ := memWriteBytes_frame h3
  obtain ⟨o4, rfl⟩ := memWriteBytes_frame h4
  cases h
  exact ⟨_, _, _, rfl⟩

/-- `append_fingerprint` changes only `OBUF`, `WP` and `CRCV` (R238). -/
theorem appendFingerprint_frame {p : Primitives} {s t : State} (h : appendFingerprint p s = .ok t) :
    ∃ o w c, t = { s with obuf := o, wp := w, crcv := c } := by
  unfold appendFingerprint memWrite16 memWrite32 at h
  obtain ⟨s1, h1, h⟩ := bind_ok h
  obtain ⟨d, -, h⟩ := bind_ok h
  obtain ⟨s2, h2, h⟩ := bind_ok h
  obtain ⟨s3, h3, h⟩ := bind_ok h
  obtain ⟨s4, h4, h⟩ := bind_ok h
  obtain ⟨o1, rfl⟩ := memWriteBytes_frame h1
  obtain ⟨o2, rfl⟩ := memWriteBytes_frame h2
  obtain ⟨o3, rfl⟩ := memWriteBytes_frame h3
  obtain ⟨o4, rfl⟩ := memWriteBytes_frame h4
  cases h
  exact ⟨_, _, _, rfl⟩

/-- Phase `KEY` changes only `PHASE`, `FPWD` and `KEY` (R202). -/
theorem keyPhase_frame {h : Primitives} {s t : State} (e : keyPhase h s = .ok t) :
    ∃ p f k, t = { s with phase := p, fpwd := f, key := k } := by
  unfold keyPhase at e
  split at e
  · unfold deriveKey at e
    split at e
    · cases e
    · cases e; exact ⟨_, _, _, rfl⟩
  · cases e; exact ⟨_, _, _, rfl⟩

/-- Phase `MI` changes only `OBUF`, `WP`, `PHASE` and `DIGEST` (R205). -/
theorem integrityPhase_frame {h : Primitives} {s t : State} (e : integrityPhase h s = .ok t) :
    ∃ o w p d, t = { s with obuf := o, wp := w, phase := p, digest := d } := by
  unfold integrityPhase at e
  split at e
  · obtain ⟨_, _, _, rfl⟩ := appendIntegrity_frame e; exact ⟨_, _, _, _, rfl⟩
  · cases e; exact ⟨_, _, _, _, rfl⟩

/-- Phase `FP` changes only `OBUF`, `WP`, `PHASE` and `CRCV` (R206). -/
theorem fingerprintPhase_frame {h : Primitives} {s t : State} (e : fingerprintPhase h s = .ok t) :
    ∃ o w p c, t = { s with obuf := o, wp := w, phase := p, crcv := c } := by
  unfold fingerprintPhase at e
  split at e
  · obtain ⟨_, _, _, rfl⟩ := appendFingerprint_frame e; exact ⟨_, _, _, _, rfl⟩
  · cases e; exact ⟨_, _, _, _, rfl⟩

/-- What the phases that write the message and the end of the command may change (R203 to R207). -/
theorem writeMessage_frame {h : Primitives} {s t : State} (e : writeMessage h s = .ok t) :
    ∃ p d c o w v l i, t = reportOk i { s with
      phase := p, digest := d, crcv := c, obuf := o, wp := w, outValid := v, olen := l } := by
  unfold writeMessage at e
  obtain ⟨t1, e1, e⟩ := bind_ok e
  obtain ⟨t2, e2, e⟩ := bind_ok e
  obtain ⟨t3, e3, e⟩ := bind_ok e
  obtain ⟨t4, e4, e⟩ := bind_ok e
  obtain ⟨_, _, rfl⟩ := writeHeader_frame e1
  obtain ⟨_, _, rfl⟩ := emitAttrs_frame e2
  obtain ⟨_, _, _, _, rfl⟩ := integrityPhase_frame e3
  obtain ⟨_, _, _, _, rfl⟩ := fingerprintPhase_frame e4
  cases e
  exact ⟨_, _, _, _, _, _, _, _, rfl⟩

/-- What `SERIALIZE` may change: the output, the working and scratch registers, the response (R199). -/
theorem serialize_frame {h : Primitives} {s t : State} (e : serialize h s = .ok t) :
    ∃ p d c o w v l r i po f k n, t = { s with
      phase := p, digest := d, crcv := c, obuf := o, wp := w, outValid := v, olen := l, result := r, info := i,
      portOut := po, fpwd := f, key := k, draws := n } := by
  unfold serialize at e
  simp only at e
  split at e
  · cases e; exact ⟨_, _, _, _, _, _, _, _, _, _, _, _, _, rfl⟩
  · cases hk : keyPhase h (startOutput s) with
    | error i => rw [hk] at e; cases e; exact ⟨_, _, _, _, _, _, _, _, _, _, _, _, _, rfl⟩
    | ok s1 =>
      rw [hk] at e
      simp only at e
      obtain ⟨_, _, _, rfl⟩ := keyPhase_frame hk
      cases hw : writeMessage h { startOutput s with phase := _, fpwd := _, key := _ } with
      | error _ => rw [hw] at e; cases e
      | ok t1 =>
        rw [hw] at e
        obtain ⟨_, _, _, _, _, _, _, _, rfl⟩ := writeMessage_frame hw
        cases e
        exact ⟨_, _, _, _, _, _, _, _, _, _, _, _, _, rfl⟩

end Sys2Proof.Machine
end

