-- ==== Sys2Proof/Laws/Phases.lean ====
section
/-!
SUPPORT. The phases of `SERIALIZE` in a form that chains: from a state that has built the bytes `b`, each phase reaches a
state that has built the next bytes, and nothing but the working registers differs from the state `SERIALIZE` began with.
-/

namespace Sys2Proof.Machine

/-- In the middle of `SERIALIZE` started from `s`: the buffer holds exactly `b`, the write pointer is behind it, and
besides them only the phase, the digest and the CRC may differ from `s`. -/
structure Built (s : State) (b : Bytes) (t : State) : Prop where
  obuf : t.obuf = obufOfBytes 0 b
  wp   : t.wp = BitVec.ofNat 17 b.length
  rest : ∃ o w p d c, t = { s with obuf := o, wp := w, phase := p, digest := d, crcv := c }

namespace Built

variable {s t : State} {b : Bytes}

theorem attr (h : Built s b t) : t.attr = s.attr := by obtain ⟨_, _, _, _, _, rfl⟩ := h.rest; rfl
theorem caps (h : Built s b t) : t.caps = s.caps := by obtain ⟨_, _, _, _, _, rfl⟩ := h.rest; rfl
theorem key (h : Built s b t) : t.key = s.key := by obtain ⟨_, _, _, _, _, rfl⟩ := h.rest; rfl
theorem miEn (h : Built s b t) : t.miEn = s.miEn := by obtain ⟨_, _, _, _, _, rfl⟩ := h.rest; rfl
theorem fpEn (h : Built s b t) : t.fpEn = s.fpEn := by obtain ⟨_, _, _, _, _, rfl⟩ := h.rest; rfl

/-- Entering a phase changes nothing of it. -/
theorem enter (h : Built s b t) (p : Phase) : Built s b { t with phase := p } := by
  obtain ⟨_, _, _, _, _, rfl⟩ := h.rest
  exact ⟨h.obuf, h.wp, _, _, _, _, _, rfl⟩

end Built

/-- Phase `HDR` (R203). -/
theorem writeHeader_built (s : State) (p : Phase) (ho : s.obuf = []) :
    ∃ t, writeHeader { s with phase := p } = .ok t ∧ Built s (wireHeader s (bodySize s.attr)) t :=
  ⟨_, writeHeader_eq { s with phase := p } ho, rfl, by simp, _, _, _, _, _, rfl⟩

/-- Phase `ATTRS` (R204). -/
theorem emitAttrs_built {s t : State} {b : Bytes} (h : Built s b t) (p : Phase) (l : List Attribute)
    (hb : b.length + bodySize l ≤ obufBytes s.caps) :
    ∃ t', emitAttrs l { t with phase := p } = .ok t' ∧ Built s (b ++ wireAttributes l) t' := by
  obtain ⟨o, w, _, d, c, rfl⟩ := h.rest
  exact ⟨_, emitAttrs_eq l { s with obuf := o, wp := w, phase := p, digest := d, crcv := c } b h.obuf h.wp hb,
    rfl, by simp, _, _, _, _, _, rfl⟩

/-- Phase `MI` when integrity is enabled (R205, R235). -/
theorem integrityPhase_built {s t : State} {l : Nat} {r : Bytes} (p : Primitives) (hm : s.miEn = true)
    (h : Built s (wireHeader s l ++ r) t) (hb : 20 + r.length + 24 ≤ obufBytes s.caps) :
    ∃ t', integrityPhase p t = .ok t' ∧ Built s (wireHeader s (r.length + 24) ++ (r ++
      (be16 attrMessageIntegrity ++ be16 0x0014 ++ (p.hmacSha1 s.key (wireHeader s (r.length + 24) ++ r)).toList))) t' := by
  unfold integrityPhase
  rw [if_pos (by rw [h.miEn, hm])]
  obtain ⟨o, w, _, d, c, rfl⟩ := h.rest
  have he := appendIntegrity_eq p { s with obuf := o, wp := w, phase := .mi, digest := d, crcv := c } l r h.obuf
    (by have := h.wp; simpa using this) hb
  refine ⟨_, he, ?_, congrArg (BitVec.ofNat 17) (by simp; omega), _, _, _, _, _, rfl⟩
  exact congrArg (obufOfBytes 0) (List.append_assoc ..)

/-- Phase `MI` when integrity is disabled (R205). -/
theorem integrityPhase_off {s t : State} {b : Bytes} (p : Primitives) (hm : s.miEn = false) (h : Built s b t) :
    integrityPhase p t = .ok t := by
  unfold integrityPhase
  rw [if_neg (by rw [h.miEn, hm]; simp)]

/-- Phase `FP` when the fingerprint is enabled (R206, R238). -/
theorem fingerprintPhase_built {s t : State} {l : Nat} {r : Bytes} (p : Primitives) (hf : s.fpEn = true)
    (h : Built s (wireHeader s l ++ r) t) (hb : 20 + r.length + 8 ≤ obufBytes s.caps) :
    ∃ t', fingerprintPhase p t = .ok t' ∧ Built s (wireHeader s (r.length + 8) ++ r ++
      (be16 attrFingerprint ++ be16 0x0004 ++ be32 (p.crc32 (wireHeader s (r.length + 8) ++ r) ^^^ fingerprintXor))) t' := by
  unfold fingerprintPhase
  rw [if_pos (by rw [h.fpEn, hf])]
  obtain ⟨o, w, _, d, c, rfl⟩ := h.rest
  have he := appendFingerprint_eq p { s with obuf := o, wp := w, phase := .fp, digest := d, crcv := c } l r h.obuf
    (by have := h.wp; simpa using this) hb
  exact ⟨_, he, rfl, congrArg (BitVec.ofNat 17) (by simp; omega), _, _, _, _, _, rfl⟩

/-- Phase `FP` when the fingerprint is disabled (R206). -/
theorem fingerprintPhase_off {s t : State} {b : Bytes} (p : Primitives) (hf : s.fpEn = false) (h : Built s b t) :
    fingerprintPhase p t = .ok t := by
  unfold fingerprintPhase
  rw [if_neg (by rw [h.fpEn, hf]; simp)]

/-- The mask of R201 is zero exactly when the message is configured. -/
theorem missingMask_eq_zero (s : State) : missingMask s = 0 ↔ Configured s := by
  unfold missingMask Configured
  cases s.vMethod <;> cases s.vClass <;> cases s.vTid <;> decide

/-- The mask of R201 as the number R29 gives it. -/
theorem missingMask_eq (s : State) : missingMask s = BitVec.ofNat 16 ((if s.vMethod = true then 0 else 1)
    + (if s.vClass = true then 0 else 2) + (if s.vTid = true then 0 else 4)) := by
  unfold missingMask
  cases s.vMethod <;> cases s.vClass <;> cases s.vTid <;> decide

end Sys2Proof.Machine
end

