-- ==== Sys2Proof/Laws/Step.lean ====
section
/-!
SUPPORT. Everything one step can do (spec/00_scope.md R13, spec/40_control_commands.md R130, spec/20_memory.md R79,
spec/70_reset_and_hazards.md R301), and the meaning of `SERIALIZE` as the function it runs.
-/

namespace Sys2Proof.Machine

/-- The inversion lemma of `step`: no event, an illegal command, a legal command, a read of the output, or `Reset`. -/
theorem step_cases {s t : State} (h : step s = .next t) :
    (s.port = [] ∧ t = s)
    ∨ (∃ d p rest e, s.port = .command d p :: rest ∧ s.phase = .idle ∧ decode d p = .error e
        ∧ t = answered 0x10 ((fieldOpc d).setWidth 16) { s with port := rest, phase := .idle })
    ∨ (∃ d p rest i, s.port = .command d p :: rest ∧ s.phase = .idle ∧ decode d p = .ok i
        ∧ exec i { s with port := rest } = .next t)
    ∨ (∃ i rest b, s.port = .readOut i :: rest ∧ outRead i s = some b
        ∧ t = { s with port := rest, portOut := .data b })
    ∨ ∃ rest, s.port = .reset :: rest
        ∧ t = { State.reset with caps := s.caps, port := rest, draws := s.draws } := by
  unfold step serve at h
  split at h
  · next hp => cases h; exact .inl ⟨hp, rfl⟩
  · next d p rest hp =>
    unfold acceptCommand at h
    split at h
    · cases h
    · next hi =>
      have hi : s.phase = .idle := by simpa using hi
      split at h
      · next e he => cases h; exact .inr (.inl ⟨d, p, rest, e, hp, hi, he, rfl⟩)
      · next i he => exact .inr (.inr (.inl ⟨d, p, rest, i, hp, hi, he, h⟩))
  · next i rest hp =>
    unfold readOutput at h
    split at h
    · next b hb => cases h; exact .inr (.inr (.inr (.inl ⟨i, rest, b, hp, hb, rfl⟩)))
    · cases h
  · next rest hp => cases h; exact .inr (.inr (.inr (.inr ⟨rest, hp, rfl⟩)))

/-- The command `SERIALIZE` reaches a next state exactly when the function it runs does. -/
theorem exec_serialize_iff (s t : State) : exec .serialize s = .next t ↔ serialize platformPrimitives s = .ok t := by
  simp only [exec, execSerialize]
  cases serialize platformPrimitives s <;> simp

/-- Every other command has a next state in every state: none of them can fault or be refused (R270). -/
theorem exec_next {i : Instr} (s : State) (hi : i ≠ .serialize) : ∃ t, exec i s = .next t := by
  cases i <;> first | exact ⟨_, rfl⟩ | contradiction

end Sys2Proof.Machine
end

