-- ==== Sys2Proof/Tests/Primitives.lean ====
section
/-!
SUPPORT. The standard MD5, HMAC-SHA-1 and CRC-32 (general knowledge, spec/00_scope.md R12, GK1), written on natural numbers
so that the kernel can evaluate them. They instantiate the model's primitives in tests of the spec's vectors;
the machine itself never uses them.
-/

namespace Sys2Proof.Tests

/-- Continue with the value of a number, evaluated first. -/
def force {α : Type} (n : Nat) (k : Nat → α) : α :=
  match n with
  | 0 => k 0
  | m + 1 => k (m + 1)

def w32 (n : Nat) : Nat := n % 4294967296
def not32 (n : Nat) : Nat := n ^^^ 4294967295
def rotl (n x : Nat) : Nat := w32 (x <<< n) ||| (x >>> (32 - n))

def bytesLe (k n : Nat) : List Nat :=
  (List.range k).map fun i => (n >>> (8 * i)) % 256
def bytesBe (k n : Nat) : List Nat := (bytesLe k n).reverse
def numLe (l : List Nat) : Nat := l.foldr (fun b n => b + 256 * n) 0
def numBe (l : List Nat) : Nat := l.foldl (fun n b => 256 * n + b) 0

/-- Message padding to a multiple of 64 bytes; `len` encodes the bit length. -/
def pad (len : Nat → List Nat) (m : List Nat) : List Nat :=
  m ++ [0x80] ++ List.replicate ((119 - m.length % 64) % 64) 0 ++ len (8 * m.length)

def chunks (k : Nat) : Nat → List Nat → List (List Nat)
  | 0, _ => []
  | n + 1, l => l.take k :: chunks k n (l.drop k)

def crcBit (c : Nat) : Nat := if c % 2 = 1 then (c / 2) ^^^ 0xEDB88320 else c / 2
def crcBits : Nat → Nat → Nat
  | 0, c => c
  | n + 1, c => force (crcBit c) fun d => crcBits n d
def crcBytes : List Nat → Nat → Nat
  | [], c => c
  | b :: l, c => force (crcBits 8 (c ^^^ b)) fun d => crcBytes l d
def crc32 (l : List Nat) : Nat := not32 (crcBytes l 0xFFFFFFFF)

/-- The 80 words of a SHA-1 block, from its last 16 words, newest first. -/
def shaSchedule : Nat → List Nat → List Nat
  | 0, l => l
  | n + 1, l =>
    force (rotl 1 (l.getD 2 0 ^^^ l.getD 7 0 ^^^ l.getD 13 0 ^^^ l.getD 15 0)) fun x => shaSchedule n (x :: l)
def shaF (t b c d : Nat) : Nat :=
  if t < 20 then (b &&& c) ||| (not32 b &&& d)
  else if t < 40 then b ^^^ c ^^^ d
  else if t < 60 then (b &&& c) ||| (b &&& d) ||| (c &&& d)
  else b ^^^ c ^^^ d
def shaK (t : Nat) : Nat :=
  if t < 20 then 0x5A827999 else if t < 40 then 0x6ED9EBA1 else if t < 60 then 0x8F1BBCDC else 0xCA62C1D6
def shaRounds : List Nat → Nat → Nat → Nat → Nat → Nat → Nat → List Nat
  | [], _, a, b, c, d, e => [a, b, c, d, e]
  | w :: ws, t, a, b, c, d, e =>
    force (w32 (rotl 5 a + shaF t b c d + e + shaK t + w)) fun x =>
      force (rotl 30 b) fun y => force (t + 1) fun t' => shaRounds ws t' x a y c d
def shaBlock (h : List Nat) (blk : List Nat) : List Nat :=
  let w := ((chunks 4 16 blk).map numBe).reverse
  let r := shaRounds (shaSchedule 64 w).reverse 0 (h.getD 0 0) (h.getD 1 0) (h.getD 2 0) (h.getD 3 0) (h.getD 4 0)
  List.zipWith (fun x y => w32 (x + y)) h r
def sha1 (m : List Nat) : List Nat :=
  let p := pad (bytesBe 8) m
  let h := (chunks 64 (p.length / 64) p).foldl shaBlock
    [0x67452301, 0xEFCDAB89, 0x98BADCFE, 0x10325476, 0xC3D2E1F0]
  h.flatMap (bytesBe 4)
def hmacSha1 (key m : List Nat) : List Nat :=
  let k := if 64 < key.length then sha1 key else key
  let k := k ++ List.replicate (64 - k.length) 0
  sha1 (k.map (fun b => b ^^^ 0x5C) ++ sha1 (k.map (fun b => b ^^^ 0x36) ++ m))

def md5K : List Nat :=
  [0xd76aa478, 0xe8c7b756, 0x242070db, 0xc1bdceee, 0xf57c0faf, 0x4787c62a, 0xa8304613, 0xfd469501,
   0x698098d8, 0x8b44f7af, 0xffff5bb1, 0x895cd7be, 0x6b901122, 0xfd987193, 0xa679438e, 0x49b40821]
  ++ [0xf61e2562, 0xc040b340, 0x265e5a51, 0xe9b6c7aa, 0xd62f105d, 0x02441453, 0xd8a1e681, 0xe7d3fbc8,
   0x21e1cde6, 0xc33707d6, 0xf4d50d87, 0x455a14ed, 0xa9e3e905, 0xfcefa3f8, 0x676f02d9, 0x8d2a4c8a]
  ++ [0xfffa3942, 0x8771f681, 0x6d9d6122, 0xfde5380c, 0xa4beea44, 0x4bdecfa9, 0xf6bb4b60, 0xbebfbc70,
   0x289b7ec6, 0xeaa127fa, 0xd4ef3085, 0x04881d05, 0xd9d4d039, 0xe6db99e5, 0x1fa27cf8, 0xc4ac5665]
  ++ [0xf4292244, 0x432aff97, 0xab9423a7, 0xfc93a039, 0x655b59c3, 0x8f0ccc92, 0xffeff47d, 0x85845dd1,
   0x6fa87e4f, 0xfe2ce6e0, 0xa3014314, 0x4e0811a1, 0xf7537e82, 0xbd3af235, 0x2ad7d2bb, 0xeb86d391]
def md5S : List Nat := [7, 12, 17, 22, 5, 9, 14, 20, 4, 11, 16, 23, 6, 10, 15, 21]
def md5F (t b c d : Nat) : Nat :=
  if t < 16 then (b &&& c) ||| (not32 b &&& d)
  else if t < 32 then (d &&& b) ||| (not32 d &&& c)
  else if t < 48 then b ^^^ c ^^^ d
  else c ^^^ (b ||| not32 d)
def md5G (t : Nat) : Nat :=
  if t < 16 then t else if t < 32 then (5 * t + 1) % 16 else if t < 48 then (3 * t + 5) % 16 else (7 * t) % 16
def md5Rounds (m : List Nat) : List Nat → Nat → Nat → Nat → Nat → Nat → List Nat
  | [], _, a, b, c, d => [a, b, c, d]
  | k :: ks, t, a, b, c, d =>
    force (w32 (b + rotl (md5S.getD (4 * (t / 16) + t % 4) 0) (w32 (a + md5F t b c d + k + m.getD (md5G t) 0)))) fun x =>
      force (t + 1) fun t' => md5Rounds m ks t' d x b c
def md5Block (h : List Nat) (blk : List Nat) : List Nat :=
  let m := (chunks 4 16 blk).map numLe
  let r := md5Rounds m md5K 0 (h.getD 0 0) (h.getD 1 0) (h.getD 2 0) (h.getD 3 0)
  List.zipWith (fun x y => w32 (x + y)) h r
def md5 (m : List Nat) : List Nat :=
  let p := pad (bytesLe 8) m
  let h := (chunks 64 (p.length / 64) p).foldl md5Block [0x67452301, 0xEFCDAB89, 0x98BADCFE, 0x10325476]
  h.flatMap (bytesLe 4)

def toNats (l : Bytes) : List Nat := l.map (·.toNat)

/-- The first `n` numbers of a list as bytes. -/
def toVector (n : Nat) (l : List Nat) : Vector Byte n :=
  Vector.ofFn fun i => BitVec.ofNat 8 (l.getD i.val 0)

/-- The standard primitives. -/
def standard : Primitives where
  md5 := fun b => toVector 16 (md5 (toNats b))
  hmacSha1 := fun k d => toVector 20 (hmacSha1 (toNats k) (toNats d))
  crc32 := fun b => BitVec.ofNat 32 (crc32 (toNats b))

end Sys2Proof.Tests
end

