-- ==== Sys2Proof/Tests/Slice0.lean ====
section
/-!
SUPPORT. The model's own tests: small facts on one step, with expected results from spec/95_test_vectors.md (named in each
comment) or worked out by hand from a rule, and for each obligation with hypotheses a witness that meets them.
-/

namespace Sys2Proof.Tests

open Sys2Proof.Machine

/-! ### States to test on -/

/-- `BODY_MAX` = 72 and `CRED_MAX` = 18, what the programs of spec/95_test_vectors.md need. -/
def vectorCaps : Capacities := ⟨18, 18⟩

/-- The reset state with those capacities. -/
def blank : State := { State.reset with caps := vectorCaps }

/-- Vector S1 (the source's own) before `SET_FP_EN`: method Allocate, class request, two attributes. -/
def ready : State :=
  { blank with
    method := 0x003
    cls := 0
    tid0 := 0x2782A602
    tid1 := 0xFEFE8059
    tid2 := 0xBC94C712
    vMethod := true
    vClass := true
    vTid := true
    attr := [⟨0x0019, [0x11, 0x00, 0x00, 0x00]⟩, ⟨0x000D, [0x00, 0x00, 0x0e, 0x10]⟩] }

/-- `ready` with integrity enabled and the password "pass", no attributes. -/
def readyMi : State :=
  { ready with
    attr := []
    miEn := true
    password := [0x70, 0x61, 0x73, 0x73] }

/-- A store with no room left: one entry of 4 + 68 = 72 bytes. -/
def fullStore : State := { blank with attr := [⟨0x8022, List.replicate 68 0x61⟩] }

/-- A state after a successful `SERIALIZE` of vector S4 (20 bytes of output). -/
def finished : State :=
  { ready with
    attr := []
    outValid := true
    olen := 20
    obuf := obufOfBytes 0 (wireHeader ready 0) }

/-- The next state of an outcome. -/
def nextOf : Host.Outcome State Fault Refusal → Option State
  | .next s => some s
  | _ => none

/-- The response word of an outcome. -/
def responseOf (o : Host.Outcome State Fault Refusal) : Option Word32 :=
  match o with
  | .next s =>
    match s.portOut with
    | .response w => some w
    | _ => none
  | _ => none

/-- The output of `SERIALIZE` run with given primitives. -/
def outputOf (r : Except Fault State) : Option Bytes :=
  match r with
  | .ok s => hostOutput s
  | .error _ => none

/-- One step on a command presented to an idle block. -/
def present (d : Descriptor) (p : Bytes) (s : State) : Host.Outcome State Fault Refusal :=
  step { s with port := [.command d p] }

/-! ### Well-formedness: each check refuses an ill-formed term, and admits the longest payload (R90) -/

theorem test_wf_password_too_long : (Instr.setPassword (List.replicate 65536 0)).wellFormed = false := by
  simp only [Instr.wellFormed, List.length_replicate]; decide
theorem test_wf_username_too_long : (Instr.setAttrUsername (List.replicate 65536 0)).wellFormed = false := by
  simp only [Instr.wellFormed, List.length_replicate]; decide
theorem test_wf_realm_too_long : (Instr.setAttrRealm (List.replicate 65536 0)).wellFormed = false := by
  simp only [Instr.wellFormed, List.length_replicate]; decide
theorem test_wf_nonce_too_long : (Instr.setAttrNonce (List.replicate 65536 0)).wellFormed = false := by
  simp only [Instr.wellFormed, List.length_replicate]; decide
theorem test_wf_value_too_long : (Instr.addAttr 0x8022 (List.replicate 65536 0)).wellFormed = false := by
  simp only [Instr.wellFormed, List.length_replicate]; decide
theorem test_wf_longest_payload : (Instr.addAttr 0x8022 (List.replicate 65535 0)).wellFormed = true := by
  simp only [Instr.wellFormed, List.length_replicate]; decide

/-! ### Decoding: one word per command, its fields written from R90 and the table of R94 and R100 -/

theorem test_decode_clear : decode 0x0100000000000000 [] = .ok .clear := by decide
theorem test_decode_setMethod : decode 0x020000000ABC0000 [] = .ok (.setMethod 0xABC) := by decide
theorem test_decode_setClass : decode 0x0300000000030000 [] = .ok (.setClass 3) := by decide
theorem test_decode_setTid : decode 0x040000000000000C [0x01, 0x02, 0x03, 0x04, 0x05, 0x06, 0x07, 0x08, 0x09, 0x0a, 0x0b, 0x0c]
    = .ok (.setTid 0x01020304 0x05060708 0x090A0B0C) := by decide
theorem test_decode_setFpEn : decode 0x0500000000000000 [] = .ok (.setFpEn false) := by decide
theorem test_decode_setMiEn : decode 0x0600000000010000 [] = .ok (.setMiEn true) := by decide
theorem test_decode_setPassword : decode 0x0700000000000002 [0x20, 0xad] = .ok (.setPassword [0x20, 0xad]) := by decide
theorem test_decode_getStatus : decode 0x0800000000000000 [] = .ok .getStatus := by decide
theorem test_decode_setAttrRequestedTransport : decode 0x1000000000000000 [] = .ok .setAttrRequestedTransport := by decide
theorem test_decode_setAttrLifetime : decode 0x1100000000000004 [0x80, 0x00, 0x02, 0x58] = .ok (.setAttrLifetime 0x80000258) := by
  decide
theorem test_decode_setAttrUsername : decode 0x1200000000000001 [0x62] = .ok (.setAttrUsername [0x62]) := by decide
theorem test_decode_setAttrRealm : decode 0x1300000000000000 [] = .ok (.setAttrRealm []) := by decide
theorem test_decode_setAttrNonce : decode 0x1400000000000003 [1, 2, 3] = .ok (.setAttrNonce [1, 2, 3]) := by decide
theorem test_decode_addAttr : decode 0x1500000080280001 [0xff] = .ok (.addAttr 0x8028 [0xff]) := by decide
theorem test_decode_serialize : decode 0x2000000000000000 [] = .ok .serialize := by decide

/-- The numbering of spec/opcode_table.json: descriptor in bits 63:0, first payload byte in bits 71:64. -/
theorem test_decodeTableWord_addAttr :
    decodeTableWord 80 (0x1500000080220002 + 0x61 * 2 ^ 64 + 0x62 * 2 ^ 72) = some (.addAttr 0x8022 [0x61, 0x62]) := by
  decide
/-- A row that gives only the descriptor's bits: the payload bytes are zero. -/
theorem test_decodeTableWord_setTid : decodeTableWord 64 0x040000000000000C = some (.setTid 0 0 0) := by decide

/-! ### Illegal commands: vectors X1 to X15 (the response is 0x10 and the opcode byte) -/

theorem test_illegal_decode :
    decode 0x0000000000000000 [] = .error .opcode ∧ decode 0x0900000000000000 [] = .error .opcode
    ∧ decode 0xFF0000000000FFFF [] = .error .opcode ∧ decode 0x0200000010030000 [] = .error .immediate
    ∧ decode 0x0300000000040000 [] = .error .immediate ∧ decode 0x0500000000020000 [] = .error .immediate
    ∧ decode 0x040000000000000B (List.replicate 11 0) = .error .length
    ∧ decode 0x040000000000000C (List.replicate 11 0) = .error .payload := by decide
theorem test_illegal_decode_more :
    decode 0x1100000000000003 [0, 0, 0] = .error .length ∧ decode 0x0100000100000000 [] = .error .reserved
    ∧ decode 0x0100000000010000 [] = .error .immediate ∧ decode 0x0800000000000001 [0] = .error .length
    ∧ decode 0x2000000000000004 [0, 0, 0, 0] = .error .length ∧ decode 0x1000000000110000 [] = .error .immediate
    ∧ decode 0x0700000000010000 [] = .error .immediate := by decide
/-- X3. -/
theorem test_illegal_response : responseOf (present 0xFF0000000000FFFF [] blank) = some 0x100000FF := by decide
/-- X13: an illegal `SERIALIZE` does not clear `OUT_VALID`. -/
theorem test_illegal_serialize_keeps_output :
    (nextOf (present 0x2000000000000004 [0, 0, 0, 0] finished)).map (fun s => (s.outValid, s.olen, s.result, s.info))
      = some (true, 20, 0x10, 0x0020) := by decide

/-! ### The commands -/

/-- R131: everything is empty again. -/
theorem test_clear_finished :
    (nextOf (exec .clear finished)).map (fun s => (s.outValid, s.olen, s.obuf.length, s.vTid, s.method)) = some (false, 0, 0, false, 0) := by
  decide
/-- R132: a second `SET_METHOD` overwrites the first. -/
theorem test_setMethod_overwrites :
    (nextOf (exec (.setMethod 0x006) ready)).map (fun s => (s.method, s.vMethod)) = some (0x006, true) := by decide
theorem test_setClass_example :
    (nextOf (exec (.setClass 2) blank)).map (fun s => (s.cls, s.vClass, s.vMethod)) = some (2, true, false) := by decide
/-- R134's example, through the port. -/
theorem test_setTid_example :
    (nextOf (present 0x040000000000000C [0x27, 0x82, 0xa6, 0x02, 0xfe, 0xfe, 0x80, 0x59, 0xbc, 0x94, 0xc7, 0x12] blank)).map
      (fun s => (s.tid0, s.tid1, s.tid2, s.vTid)) = some (0x2782A602, 0xFEFE8059, 0xBC94C712, true) := by decide
theorem test_setFpEn_only_its_flag :
    (nextOf (exec (.setFpEn true) blank)).map (fun s => (s.fpEn, s.miEn)) = some (true, false) := by decide
theorem test_setMiEn_only_its_flag :
    (nextOf (exec (.setMiEn false) { readyMi with fpEn := true })).map (fun s => (s.fpEn, s.miEn)) = some (true, false) := by
  decide
/-- Program P5 step 9, at `CRED_MAX` = 18. -/
theorem test_setPassword_too_long : responseOf (exec (.setPassword (List.replicate 19 0x61)) blank) = some 0x12000000 := by decide
/-- The filter does not run at load time (R137). -/
theorem test_setPassword_unfiltered :
    (nextOf (exec (.setPassword [0x7f, 0xad]) blank)).map (fun s => (s.password, s.result)) = some ([0x7f, 0xad], 0x00) := by decide
/-- R139's example: 0x000B after `SET_METHOD`, `SET_CLASS`, `SET_FP_EN 1`. -/
theorem test_getStatus_example :
    responseOf (exec .getStatus { blank with vMethod := true, vClass := true, fpEn := true }) = some 0x0000000B := by decide
/-- Program P2 step 16: bits 0 to 6. -/
theorem test_getStatus_all :
    responseOf (exec .getStatus { finished with fpEn := true, miEn := true, username := [0x75] }) = some 0x0000007F := by decide
/-- The type is 0x0019 and the value `11 00 00 00` (E4). -/
theorem test_setAttrRequestedTransport :
    (nextOf (exec .setAttrRequestedTransport blank)).map (·.attr) = some [⟨0x0019, [0x11, 0x00, 0x00, 0x00]⟩] := by decide
/-- Program P3 step 6: the later lifetime is ignored with success. -/
theorem test_setAttrLifetime_first_wins :
    (nextOf (exec (.setAttrLifetime 600) ready)).map (fun s => (s.attr, s.result)) = some (ready.attr, 0x00) := by decide
/-- Program P6: the second username overwrites the credential, not the attribute. -/
theorem test_setAttrUsername_twice :
    (nextOf (exec (.setAttrUsername [0x62]) { blank with attr := [⟨0x0006, [0x61]⟩], username := [0x61] })).map
      (fun s => (s.username, s.attr)) = some ([0x62], [⟨0x0006, [0x61]⟩]) := by decide
/-- Program P5 step 10: the attribute does not fit, so the credential is not written either. -/
theorem test_setAttrUsername_full :
    (nextOf (exec (.setAttrUsername [0x75]) fullStore)).map (fun s => (s.username, s.result)) = some ([], 0x12) := by decide
theorem test_setAttrRealm :
    (nextOf (exec (.setAttrRealm [0x72]) blank)).map (fun s => (s.realm, s.attr, s.username)) = some ([0x72], [⟨0x0014, [0x72]⟩], []) := by
  decide
theorem test_setAttrNonce :
    (nextOf (exec (.setAttrNonce [0x30]) ready)).map (fun s => s.attr.length) = some 3 := by decide
/-- Program P3 step 7. -/
theorem test_addAttr_protected : responseOf (exec (.addAttr 0x8028 [0xde, 0xad]) blank) = some 0x01008028 := by decide
/-- Program P5 step 8: a duplicate is ignored with success although the store is full and the value would not fit. -/
theorem test_addAttr_duplicate_when_full :
    responseOf (exec (.addAttr 0x8022 (List.replicate 100 0x61)) fullStore) = some 0x00000000 := by decide
/-- X16: `NotConfigured` with the mask 0b111. -/
theorem test_serialize_unconfigured : responseOf (exec .serialize blank) = some 0x11000007 := by decide
/-- Program P3 step 12: the byte 0x7F at index 2. -/
theorem test_serialize_bad_password :
    responseOf (exec .serialize { readyMi with password := [0x70, 0x61, 0x7f, 0x73, 0x73] }) = some 0x02000002 := by decide

/-! ### Whole messages, with the standard primitives of GK1 -/

/-- Vector S1, which is the source's own vector E1. -/
theorem test_serialize_s1 : outputOf (serialize standard { ready with fpEn := true }) = some (
    [0x00, 0x03, 0x00, 0x18, 0x21, 0x12, 0xa4, 0x42, 0x27, 0x82, 0xa6, 0x02, 0xfe, 0xfe, 0x80, 0x59]
    ++ [0xbc, 0x94, 0xc7, 0x12, 0x00, 0x19, 0x00, 0x04, 0x11, 0x00, 0x00, 0x00, 0x00, 0x0d, 0x00, 0x04]
    ++ [0x00, 0x00, 0x0e, 0x10, 0x80, 0x28, 0x00, 0x04, 0xe9, 0x16, 0x5e, 0x7f]) := by decide +kernel

/-- Vector S6: both trailers, no attributes, no credentials (the empty key). -/
theorem test_serialize_s6 : outputOf (serialize standard { ready with
      tid0 := 0
      tid1 := 0
      tid2 := 0
      attr := []
      miEn := true
      fpEn := true }) = some (
    [0x00, 0x03, 0x00, 0x20, 0x21, 0x12, 0xa4, 0x42, 0x00, 0x00, 0x00, 0x00, 0x00, 0x00, 0x00, 0x00]
    ++ [0x00, 0x00, 0x00, 0x00, 0x00, 0x08, 0x00, 0x14, 0x81, 0x67, 0x62, 0xd6, 0xbb, 0xe9, 0xe5, 0xe4]
    ++ [0xd0, 0x9b, 0x9b, 0x35, 0x16, 0xc8, 0x28, 0xdb, 0x74, 0x6b, 0x62, 0x61, 0x80, 0x28, 0x00, 0x04]
    ++ [0x9d, 0x5e, 0xc2, 0x9b]) := by decide +kernel

/-- Vector S7: padding of 0, 1 and 3 bytes. -/
theorem test_serialize_s7 : outputOf (serialize standard { ready with
      method := 0x006
      cls := 1
      tid0 := 0xAAAAAAAA
      tid1 := 0xBBBBBBBB
      tid2 := 0xCCCCCCCC
      attr := [⟨0x001A, []⟩, ⟨0x8022, [0x61, 0x62, 0x63]⟩, ⟨0x0013, [0x68, 0x65, 0x6c, 0x6c, 0x6f]⟩] }) = some (
    [0x00, 0x16, 0x00, 0x18, 0x21, 0x12, 0xa4, 0x42, 0xaa, 0xaa, 0xaa, 0xaa, 0xbb, 0xbb, 0xbb, 0xbb]
    ++ [0xcc, 0xcc, 0xcc, 0xcc, 0x00, 0x1a, 0x00, 0x00, 0x80, 0x22, 0x00, 0x03, 0x61, 0x62, 0x63, 0x00]
    ++ [0x00, 0x13, 0x00, 0x05, 0x68, 0x65, 0x6c, 0x6c, 0x6f, 0x00, 0x00, 0x00]) := by decide +kernel

/-- Vectors K4 and K7: the long-term key, of the filtered password. -/
theorem test_key_long_term :
    (hmacKey standard [0x75] [0x72] [], hmacKey standard [0x75] [0x72] [0x61, 0x20, 0x62])
      = ([0x81, 0x2a, 0x8f, 0x2a, 0x85, 0x86, 0x3e, 0x9e, 0x16, 0x47, 0xda, 0x61, 0x33, 0xea, 0x23, 0x0d],
         [0x51, 0x06, 0x47, 0xf1, 0x9d, 0xf3, 0xe2, 0xa1, 0xf7, 0x87, 0xed, 0xaa, 0xfd, 0x3b, 0x91, 0x02]) := by decide +kernel
/-- Vector K6: the realm alone does not select the long-term key. -/
theorem test_key_short_term : hmacKey standard [] [0x72] [0x70] = [0x70] := by decide

/-! ### Sub-functions: vectors T, A and F -/

theorem test_pack_corners :
    [packType 0xFFF 3, packType 0 0, packType 0 1, packType 0 2, packType 0x00F 0, packType 0x010 0, packType 0x070 0,
      packType 0x080 0, packType 0xF80 0] = [0x3FFF, 0x0000, 0x0010, 0x0100, 0x000F, 0x0020, 0x00E0, 0x0200, 0x3E00] := by decide
theorem test_padding : [0, 1, 2, 3, 4, 5, 6, 7, 8, 9, 65535, 65532].map padding = [0, 3, 2, 1, 0, 3, 2, 1, 0, 3, 1, 0] := by decide
theorem test_frame_a5 :
    wireAttribute ⟨0x8022, [0x61, 0x62, 0x63, 0x64, 0x65]⟩
      = [0x80, 0x22, 0x00, 0x05, 0x61, 0x62, 0x63, 0x64, 0x65, 0x00, 0x00, 0x00] := by decide
theorem test_filter_accepts :
    [[0x61, 0xa0, 0x62], [0x61, 0xad, 0x62], [0x61, 0x20, 0x20, 0x62], [0xad], [], [0x61, 0x1f, 0x62], [0x78, 0xac, 0xae], [0xc2, 0xa0]].map
        passwordFilter
      = [.ok [0x61, 0x20, 0x62], .ok [0x61, 0x62], .ok [0x61, 0x20, 0x20, 0x62], .ok [], .ok [], .ok [0x61, 0x1f, 0x62],
         .ok [0x78, 0xac, 0xae], .ok [0xc2, 0x20]] := by decide
theorem test_filter_rejects :
    [[0x61, 0x1e, 0x62], [0x00], [0x09, 0x78], [0x61, 0x62, 0x7f], [0x80], [0x9f], [0xad, 0x7f], [0x7f, 0x00]].map passwordFilter
      = [.error 1, .error 0, .error 0, .error 2, .error 0, .error 0, .error 1, .error 0] := by decide

/-! ### The ports -/

theorem test_withFetchWord_runs :
    (nextOf (step (State.reset.withFetchWord 64 0x0200000000030000))).map (fun s => (s.method, s.vMethod, s.port))
      = some (0x003, true, []) := by decide
theorem test_reset_during_serialize :
    (nextOf (step { ready with phase := .attrs, port := [.reset] })).map (fun s => (s.phase, s.attr, s.vTid, s.portOut))
      = some (.idle, [], false, .nothing) := by decide
/-- Byte 4 of every message is 0x21 (R71), read through the output port. -/
theorem test_readOut : (nextOf (step { finished with port := [.readOut 4] })).map (·.portOut) = some (.data 0x21) := by decide

/-! ### Witnesses: for each obligation with hypotheses, states and operands that meet them together -/

theorem witness_DecodeOfEncodeIsTheCommand : (Instr.addAttr 0xFFFF (List.replicate 65535 0xff)).wellFormed = true := by
  simp only [Instr.wellFormed, List.length_replicate]; decide

theorem witness_EncodeOfDecodeIsTheDescriptor : decode 0x020000000FFF0000 [] = .ok (.setMethod 0xFFF) := by decide

theorem witness_LegalCommandsAreTheTableRows :
    decode 0x1500000080220001 [0x61] = .ok (.addAttr 0x8022 [0x61])
    ∧ ∃ r ∈ opcodeTable, rowSelects r 0x1500000080220001 = true := by decide

/-- The five tests at their boundaries: opcode 0x00, `RSV` = 1, `A` one above each largest immediate, `B` one beside 12 and 4. -/
theorem witness_IllegalCommandTestsInOrder :
    (∀ o, fieldOpc 0 ≠ opcodeByte o)
    ∧ (fieldOpc 0x0100000100000000 = opcodeByte .clear ∧ fieldRsv 0x0100000100000000 ≠ 0)
    ∧ (fieldOpc 0x0200000010000000 = opcodeByte .setMethod ∧ fieldRsv 0x0200000010000000 = 0
        ∧ maxImmediate .setMethod + 1 = (fieldA 0x0200000010000000).toNat)
    ∧ (fieldOpc 0x040000000000000D = opcodeByte .setTid ∧ fieldRsv 0x040000000000000D = 0
        ∧ (fieldA 0x040000000000000D).toNat ≤ maxImmediate .setTid
        ∧ payloadLength .setTid = some 12 ∧ (fieldB 0x040000000000000D).toNat ≠ 12)
    ∧ (fieldOpc 0x1100000000000004 = opcodeByte .setAttrLifetime ∧ fieldRsv 0x1100000000000004 = 0
        ∧ (fieldA 0x1100000000000004).toNat ≤ maxImmediate .setAttrLifetime
        ∧ (∀ n, payloadLength .setAttrLifetime = some n → (fieldB 0x1100000000000004).toNat = n)
        ∧ [(0 : Byte), 0, 0].length ≠ (fieldB 0x1100000000000004).toNat
        ∧ [(0 : Byte), 0, 0, 0].length = (fieldB 0x1100000000000004).toNat) := by
  refine ⟨fun o => by cases o <;> decide, by decide, by decide, by decide, by decide, by decide, by decide, ?_, by decide, by decide⟩
  intro n h
  cases h
  decide

theorem witness_StepRunsTheDecodedCommand :
    ({ blank with port := [.command 0x0200000000030000 [], .reset] } : State).port
        = .command 0x0200000000030000 [] :: [.reset]
    ∧ blank.phase = .idle ∧ decode 0x0200000000030000 [] = .ok (.setMethod 3)
    ∧ decodeTableWord 64 0x0200000000030000 = some (.setMethod 3) := by decide

theorem witness_IllegalCommandChangesNothing :
    ({ finished with port := [.command 0x2000000000010000 []] } : State).port = [.command 0x2000000000010000 []]
    ∧ finished.phase = .idle ∧ decode 0x2000000000010000 [] = .error .immediate := by decide

theorem witness_CommandWhileBusyIsRefused :
    ({ ready with phase := .mi, port := [.command 0x0800000000000000 []] } : State).port = [.command 0x0800000000000000 []]
    ∧ ({ ready with phase := .mi, port := [.command 0x0800000000000000 []] } : State).phase ≠ .idle := by decide

theorem witness_ResetFromEveryState :
    ({ readyMi with phase := .mi, port := [.reset, .readOut 0] } : State).port = .reset :: [.readOut 0] := by decide

theorem witness_ResetStateIsTheTable : ∃ t, exec .clear finished = .next t := ⟨_, rfl⟩

theorem witness_IdleBlockWaits : blank.port = [] := by decide

/-- The last byte of a 20-byte output, the first offset behind it, no output, and a read during a command. -/
theorem witness_OutputReadPortGivesTheOutput :
    ({ finished with port := [.readOut 19] } : State).port = [.readOut 19]
    ∧ (finished.outValid = true ∧ finished.phase = .idle ∧ finished.obuf = obufOfBytes 0 (wireHeader ready 0)
        ∧ finished.olen.toNat = (wireHeader ready 0).length ∧ (19 : Offset).toNat < (wireHeader ready 0).length)
    ∧ finished.olen ≤ (20 : Offset) ∧ blank.outValid = false
    ∧ ({ finished with phase := .fp } : State).phase ≠ .idle :=
  ⟨rfl, ⟨rfl, rfl, rfl, rfl, by decide⟩, by decide, rfl, by decide⟩

theorem witness_ClearReturnsToTheResetState : ∃ t, exec .clear readyMi = .next t := ⟨_, rfl⟩

/-- At the largest password, `CRED_MAX` = 18 bytes. -/
theorem witness_SetPasswordStoresTheBytes : (List.replicate 18 (0x61 : Byte)).length = credMax blank.caps := by decide

theorem witness_GetStatusReportsTheFlags : 7 ≤ 7 := by decide

/-- An entry that fills the store exactly: 16 + 56 = 72 = `BODY_MAX`. -/
theorem witness_AddAttrAppendsTheEntry :
    (0x8022 : Word16) ≠ 0x0008 ∧ (0x8022 : Word16) ≠ 0x8028 ∧ (∀ a ∈ ready.attr, a.code ≠ 0x8022)
    ∧ bodySize ready.attr + attrsize (List.replicate 52 0x61) = bodyMax ready.caps := by decide

theorem witness_FixedTypeCommandsAppendTheEntry :
    (∀ a ∈ blank.attr, a.code ≠ 0x0019) ∧ (∀ a ∈ blank.attr, a.code ≠ 0x000D) ∧ bodySize blank.attr + 8 ≤ bodyMax blank.caps
    ∧ (∀ a ∈ ready.attr, a.code ≠ 0x0015)
    ∧ bodySize ready.attr + attrsize (List.replicate 52 0x30) = bodyMax ready.caps := by decide

theorem witness_CredentialCommandsStoreBoth :
    (List.replicate 18 (0x61 : Byte)).length = credMax ready.caps
    ∧ bodySize ready.attr + attrsize (List.replicate 18 0x61) ≤ bodyMax ready.caps
    ∧ (∀ a ∈ ready.attr, a.code ≠ 0x0006) ∧ (∀ a ∈ ready.attr, a.code ≠ 0x0014) := by decide

theorem witness_ProtectedTypesAreRefused :
    ((0x0008 : Word16) = 0x0008 ∨ (0x0008 : Word16) = 0x8028) ∧ ((0x8028 : Word16) = 0x0008 ∨ (0x8028 : Word16) = 0x8028) := by
  decide

/-- A store that holds every type the clauses ask for. -/
theorem witness_LaterInsertionOfATypeIsIgnored :
    let s : State := { blank with attr := [⟨0x0019, []⟩, ⟨0x000D, []⟩, ⟨0x0015, []⟩, ⟨0x0006, []⟩, ⟨0x0014, []⟩, ⟨0x8022, []⟩] }
    (0x8022 : Word16) ≠ 0x0008 ∧ (0x8022 : Word16) ≠ 0x8028 ∧ (∃ a ∈ s.attr, a.code = 0x8022)
    ∧ (∃ a ∈ s.attr, a.code = 0x0019) ∧ (∃ a ∈ s.attr, a.code = 0x000D) ∧ (∃ a ∈ s.attr, a.code = 0x0015)
    ∧ (∃ a ∈ s.attr, a.code = 0x0006) ∧ (∃ a ∈ s.attr, a.code = 0x0014)
    ∧ (List.replicate 18 (0x61 : Byte)).length ≤ credMax s.caps := by decide

/-- One byte too many for `CRED_MAX`; one word too many for `BODY_MAX`. -/
theorem witness_CapacityExceededChangesNothing :
    credMax blank.caps < (List.replicate 19 (0x61 : Byte)).length
    ∧ bodyMax fullStore.caps < bodySize fullStore.attr + attrsize [] ∧ bodyMax fullStore.caps < bodySize fullStore.attr + 8
    ∧ (∀ a ∈ fullStore.attr, a.code ≠ 0x0006) ∧ (∀ a ∈ fullStore.attr, a.code ≠ 0x0014)
    ∧ (∀ a ∈ fullStore.attr, a.code ≠ 0x0015) ∧ (∀ a ∈ fullStore.attr, a.code ≠ 0x0019)
    ∧ (∀ a ∈ fullStore.attr, a.code ≠ 0x000D)
    ∧ (0x0022 : Word16) ≠ 0x0008 ∧ (0x0022 : Word16) ≠ 0x8028 ∧ (∀ a ∈ fullStore.attr, a.code ≠ 0x0022) := by decide

theorem witness_UsernameAndItsAttributeComeApart :
    ∃ t u v, exec (.setAttrUsername [0x61]) blank = .next t ∧ t.result = 0x00
      ∧ exec (.setAttrUsername [0x62]) t = .next u ∧ u.result = 0x00 ∧ exec (.addAttr 0x0006 [0x61]) blank = .next v :=
  ⟨_, _, _, rfl, by decide, rfl, by decide, rfl⟩

theorem witness_MessageTypePackingIsInjective : packType 0xFFF 3 = packType 0xFFF 3 ∧ (0x00F : Method) < 0x010 := by decide

theorem witness_PaddingLaw : 5 ≤ 8 ∧ 8 % 4 = 0 ∧ 4 % 4 = 0 ∧ 5 % 4 = 1 ∧ 6 % 4 = 2 ∧ 7 % 4 = 3 := by decide

theorem witness_PasswordFilterResult : ∀ b ∈ [(0x1f : Byte), 0x20, 0x7e, 0xa0, 0xad, 0xff], byteClass b ≠ .fail := by decide

theorem witness_KeyDerivationModes :
    passwordFilter readyMi.password = .ok [0x70, 0x61, 0x73, 0x73] ∧ readyMi.username = []
    ∧ ({ readyMi with username := [0x75] } : State).username ≠ []
    ∧ passwordFilter ({ readyMi with password := [0x7f] } : State).password = .error 0 := by decide

theorem configured_ready : Configured ready := ⟨rfl, rfl, rfl⟩

theorem configured_readyMi : Configured readyMi := ⟨rfl, rfl, rfl⟩

/-- Without integrity (any `f`) and with it; the store filled up to `BODY_MAX` in the second. -/
theorem witness_SerializeProducesTheWireMessage :
    (Configured ready ∧ PasswordAccepted ready [] ∧ bodySize ready.attr ≤ bodyMax ready.caps)
    ∧ (Configured { readyMi with attr := fullStore.attr }
        ∧ PasswordAccepted { readyMi with attr := fullStore.attr } [0x70, 0x61, 0x73, 0x73]
        ∧ bodySize fullStore.attr = bodyMax readyMi.caps) :=
  ⟨⟨configured_ready, fun h => absurd h (by decide), by decide⟩, ⟨configured_readyMi, fun _ => by decide, by decide⟩⟩

theorem witness_SerializeUnconfiguredIsRefused : ¬ Configured { ready with vTid := false } := fun h => absurd h.2.2 (by decide)

theorem witness_SerializeWithRejectedPassword :
    Configured { readyMi with password := [0x70, 0x61, 0x7f] } ∧ readyMi.miEn = true
    ∧ passwordFilter ({ readyMi with password := [0x70, 0x61, 0x7f] } : State).password = .error 2 :=
  ⟨configured_readyMi, rfl, by decide⟩

/-- A run without trailers, one with a fingerprint, and a failing one. -/
theorem serialize_ready_runs :
    (∃ t, exec .serialize ready = .next t ∧ t.result = 0x00)
    ∧ (∃ t, exec .serialize { ready with fpEn := true } = .next t ∧ t.result = 0x00)
    ∧ ∃ t, exec .serialize blank = .next t ∧ t.result = 0x11 :=
  ⟨⟨_, rfl, by decide⟩, ⟨_, rfl, by decide⟩, ⟨_, rfl, by decide⟩⟩

/-- A run with integrity, for whatever the primitives of this hardware are. -/
theorem serialize_readyMi_runs : ∃ t, exec .serialize readyMi = .next t ∧ t.result = 0x00 := by
  let k : State := { startOutput readyMi with
    phase := .key
    fpwd := [0x70, 0x61, 0x73, 0x73]
    key := [0x70, 0x61, 0x73, 0x73] }
  obtain ⟨t1, e1, b1⟩ := writeHeader_built k .hdr rfl
  obtain ⟨t2, e2, b2⟩ := emitAttrs_built b1 .attrs k.attr (by decide)
  obtain ⟨t3, e3, b3⟩ := integrityPhase_built (r := []) platformPrimitives rfl b2 (by decide)
  have e4 := fingerprintPhase_off platformPrimitives rfl b3
  rw [← b1.attr] at e2
  have hw : writeMessage platformPrimitives k =
      .ok (reportOk (BitVec.ofNat 16 ((finishOutput { t3 with phase := .finish }).wp.toNat - 20))
        (finishOutput { t3 with phase := .finish })) := by
    unfold writeMessage
    rw [e1]
    simp only [bind, Except.bind]
    rw [e2]
    simp only
    rw [e3]
    simp only
    rw [e4]
    rfl
  have hs : serialize platformPrimitives readyMi = (writeMessage platformPrimitives k).map freeScratch := rfl
  rw [hw] at hs
  exact ⟨_, (exec_serialize_iff _ _).2 hs, rfl⟩

theorem witness_SerializeKeepsTheMessage : ∃ t, exec .serialize ready = .next t := ⟨_, rfl⟩

theorem witness_MessageLengthFieldIsSizeMinusHeader :
    bodySize ready.attr ≤ bodyMax ready.caps ∧ ∃ t, exec .serialize ready = .next t ∧ t.result = 0x00 :=
  ⟨by decide, serialize_ready_runs.1⟩

theorem witness_OutputBufferMap :
    bodySize ready.attr ≤ bodyMax ready.caps
    ∧ ∃ t, exec .serialize { ready with fpEn := true } = .next t ∧ t.result = 0x00 :=
  ⟨by decide, serialize_ready_runs.2.1⟩

theorem witness_MessageIntegrityValue :
    bodySize readyMi.attr ≤ bodyMax readyMi.caps ∧ (∃ t, exec .serialize readyMi = .next t ∧ t.result = 0x00)
    ∧ readyMi.miEn = true ∧ passwordFilter readyMi.password = .ok [0x70, 0x61, 0x73, 0x73] :=
  ⟨by decide, serialize_readyMi_runs, rfl, by decide⟩

theorem witness_FingerprintValue :
    bodySize ready.attr ≤ bodyMax ready.caps
    ∧ (∃ t, exec .serialize { ready with fpEn := true } = .next t ∧ t.result = 0x00)
    ∧ ({ ready with fpEn := true } : State).fpEn = true :=
  ⟨by decide, serialize_ready_runs.2.1, rfl⟩

/-- The same message with an earlier output and an earlier response. -/
theorem witness_OutputDependsOnTheMessageOnly :
    SameMessage ready { ready with outValid := true, olen := 20, obuf := finished.obuf, result := 0x12, info := 7, wp := 20 }
    ∧ bodySize ready.attr ≤ bodyMax ready.caps ∧ ∃ t, exec .serialize ready = .next t :=
  ⟨⟨rfl, rfl, ⟨rfl, rfl, rfl⟩, ⟨rfl, rfl, rfl⟩, ⟨rfl, rfl⟩, rfl, rfl, rfl, rfl, rfl⟩, by decide, _, rfl⟩

theorem witness_SerializeTwiceGivesTheSameOutput :
    bodySize ready.attr ≤ bodyMax ready.caps ∧ ∃ t, exec .serialize ready = .next t := ⟨by decide, _, rfl⟩

theorem witness_EveryCommandEndsWithAResponse :
    bodySize fullStore.attr = bodyMax fullStore.caps ∧ ∃ t, exec .serialize fullStore = .next t := ⟨by decide, _, rfl⟩

/-- A run for each of the five result codes a legal command can produce. -/
theorem witness_ResultCodesByCommand :
    (∃ t, exec .getStatus blank = .next t ∧ t.result = 0x00)
    ∧ (∃ t, exec (.addAttr 0x0008 []) blank = .next t ∧ t.result = 0x01)
    ∧ (∃ t, exec .serialize { readyMi with password := [0x7f] } = .next t ∧ t.result = 0x02)
    ∧ (∃ t, exec .serialize blank = .next t ∧ t.result = 0x11)
    ∧ ∃ t, exec (.setAttrNonce [0x30]) fullStore = .next t ∧ t.result = 0x12 :=
  ⟨⟨_, rfl, by decide⟩, ⟨_, rfl, by decide⟩, ⟨_, rfl, by decide⟩, ⟨_, rfl, by decide⟩, ⟨_, rfl, by decide⟩⟩

theorem witness_ErrorsArePrecise :
    Instr.addAttr 0x8028 [] ≠ .serialize ∧ ∃ t, exec (.addAttr 0x8028 []) ready = .next t ∧ t.result ≠ 0x00 :=
  ⟨by decide, _, rfl, by decide⟩

theorem witness_ValidBitsAndTheirWriters : ∃ t, exec (.setTid 1 2 3) blank = .next t := ⟨_, rfl⟩

theorem witness_MessageRegistersAndTheirWriters : ∃ t, exec (.setMiEn true) ready = .next t := ⟨_, rfl⟩

theorem witness_CredentialsAndTheirWriters :
    (∃ t, exec (.setPassword [0x70]) readyMi = .next t ∧ t.result = 0x00)
    ∧ ∃ t, exec (.setAttrRealm [0x72]) fullStore = .next t ∧ t.result ≠ 0x00 :=
  ⟨⟨_, rfl, by decide⟩, ⟨_, rfl, by decide⟩⟩

theorem witness_StoredAttributesStay : Instr.setAttrNonce [0x30] ≠ .clear ∧ ∃ t, exec (.setAttrNonce [0x30]) ready = .next t :=
  ⟨by decide, _, rfl⟩

theorem witness_BuilderCommandsKeepTheOutput : isBuilder (.setMethod 4) = true ∧ ∃ t, exec (.setMethod 4) finished = .next t :=
  ⟨rfl, _, rfl⟩

theorem witness_PasswordUnseenWithoutIntegrity :
    ready.miEn = false ∧ bodySize ready.attr ≤ bodyMax ready.caps ∧ opcodeOf .serialize ≠ .setPassword
    ∧ Instr.serialize ≠ .clear ∧ ∃ t, exec .serialize ready = .next t :=
  ⟨rfl, by decide, by decide, by decide, _, rfl⟩

theorem witness_StepsKeepCapacitiesAndLaterEvents :
    ∃ t, step { blank with port := [.command 0x0800000000000000 [], .reset] } = .next t := ⟨_, rfl⟩

/-- The invariants hold of the blank state and of a state with a valid output and a stored attribute. -/
theorem inv_blank : Inv blank :=
  ⟨rfl, ⟨by decide, by decide, by decide, by decide⟩, ⟨by decide, by decide, by decide, by decide, by decide⟩,
    ⟨fun _ => ⟨rfl, rfl⟩, fun h => absurd h (by decide)⟩, ⟨fun _ => rfl, fun _ => rfl, fun _ => ⟨rfl, rfl, rfl⟩⟩, by decide⟩

theorem inv_finished : Inv { finished with attr := ready.attr } :=
  ⟨rfl, ⟨by decide, by decide, by decide, by decide⟩, ⟨by decide, by decide, by decide, by decide, by decide⟩,
    ⟨fun h => absurd h (by decide), fun _ => ⟨wireHeader ready 0, rfl, by decide, by decide, by decide, by decide, by decide⟩⟩,
    ⟨fun h => absurd h (by decide), fun h => absurd h (by decide), fun h => absurd h (by decide)⟩, by decide⟩

/-- A step that serializes, from a state with the invariants. -/
theorem witness_StepKeepsTheInvariants :
    Inv { finished with attr := ready.attr, port := [.command 0x2000000000000000 []] }
    ∧ ∃ t, step { finished with attr := ready.attr, port := [.command 0x2000000000000000 []] } = .next t :=
  ⟨⟨rfl, ⟨inv_finished.store.1, inv_finished.store.2, inv_finished.store.3, inv_finished.store.4⟩,
      ⟨inv_finished.buffers.1, inv_finished.buffers.2, inv_finished.buffers.3, inv_finished.buffers.4, inv_finished.buffers.5⟩,
      ⟨inv_finished.output.1, inv_finished.output.2⟩,
      ⟨inv_finished.registers.1, inv_finished.registers.2, inv_finished.registers.3⟩, inv_finished.result⟩, _, rfl⟩

theorem witness_StepKeepsTheBufferCanonical :
    Memory.wf { finished with port := [.command 0x2000000000000000 []] } = true
    ∧ ∃ t, step { finished with port := [.command 0x2000000000000000 []] } = .next t := ⟨by decide, _, rfl⟩

theorem witness_NoStepFaultsUnderTheInvariants :
    Inv { finished with attr := ready.attr, port := [.command 0x2000000000000000 []] }
    ∧ ({ finished with attr := ready.attr, port := [.command 0x2000000000000000 []] } : State).port
        = .command 0x2000000000000000 [] :: [] :=
  ⟨witness_StepKeepsTheInvariants.1, rfl⟩

end Sys2Proof.Tests
end

section
/-!
PROOFS. The scope of a step (spec/00_scope.md R7, R13, R14, R77; spec/40_control_commands.md R130): which command a step
runs, and that no step touches the capacities or the events after the first.
-/

namespace Sys2Proof.Machine

/-! ### The command a step runs -/

/-- A step whose first event is a command presents it to the block, without the event (R77). -/
theorem step_command {s : State} {d : Descriptor} {p : Bytes} {rest : List PortEvent} (hp : s.port = .command d p :: rest) :
    step s = acceptCommand d p { s with port := rest } := by
  simp [step, serve, hp]

/-- A legal command presented to an idle block runs its rule (R130). -/
theorem acceptCommand_legal {d : Descriptor} {p : Bytes} {i : Instr} {s : State} (hi : s.phase = .idle)
    (hd : decode d p = .ok i) : acceptCommand d p s = exec i s := by
  simp [acceptCommand, hi, hd]

/-- A step whose first event is a legal command, on an idle block, runs the command without the event (R77, R130). -/
theorem step_legalCommand {s : State} {d : Descriptor} {p : Bytes} {rest : List PortEvent} {i : Instr}
    (hp : s.port = .command d p :: rest) (hi : s.phase = .idle) (hd : decode d p = .ok i) :
    step s = exec i { s with port := rest } :=
  (step_command hp).trans (acceptCommand_legal hi hd)

/-- The bits of a command decode to `i` exactly when its descriptor and payload do. -/
theorem decodeTableWord_eq_some {nbits w : Nat} {i : Instr} :
    decodeTableWord nbits w = some i ↔ decode (commandOfWord nbits w).1 (commandOfWord nbits w).2 = .ok i := by
  unfold decodeTableWord
  cases decode (commandOfWord nbits w).1 (commandOfWord nbits w).2 <;> simp

/-- Settles O7: the second clause is the first at the state that `withFetchWord` makes, an idle block with the command first
at its port. -/
theorem stepRunsTheDecodedCommand : Obligations.StepRunsTheDecodedCommand :=
  ⟨fun _ _ _ _ _ hp hi hd => step_legalCommand hp hi hd,
    fun s nbits w _ hw => step_legalCommand (s := s.withFetchWord nbits w) rfl rfl (decodeTableWord_eq_some.1 hw)⟩

/-! ### The capacities and the later events -/

/-- `insertAttribute` keeps the capacities and the events at the ports. -/
theorem insertAttribute_caps_port (a : Word16) (v : Bytes) (s : State) :
    (insertAttribute a v s).caps = s.caps ∧ (insertAttribute a v s).port = s.port := by
  rcases insertAttribute_cases a v s with ⟨h, -⟩ | ⟨h, -⟩ | ⟨h, -⟩ <;> simp [h]

/-- `insertCredential` keeps the capacities and the events at the ports. -/
theorem insertCredential_caps_port {a : Word16} {p : Bytes} {s t : State} (h : insertCredential a p s = some t) :
    t.caps = s.caps ∧ t.port = s.port := by
  rcases insertCredential_cases a p s with ⟨e, -⟩ | ⟨e, -⟩ | ⟨e, -⟩
  · cases e.symm.trans h
  · cases e.symm.trans h; exact ⟨rfl, rfl⟩
  · cases e.symm.trans h; exact ⟨rfl, rfl⟩

/-- No command changes the capacities or the events at the ports (R14, R77). -/
theorem exec_caps_port {i : Instr} {s t : State} (h : exec i s = .next t) : t.caps = s.caps ∧ t.port = s.port := by
  cases i with
  | clear | setMethod | setClass | setTid | setFpEn | setMiEn | getStatus => cases h; exact ⟨rfl, rfl⟩
  | setPassword p => cases h; split <;> exact ⟨rfl, rfl⟩
  | setAttrRequestedTransport | setAttrLifetime | setAttrNonce => cases h; exact insertAttribute_caps_port ..
  | setAttrUsername | setAttrRealm =>
    cases h
    split
    · exact ⟨rfl, rfl⟩
    · next hs =>
      obtain ⟨hcaps, hport⟩ := insertCredential_caps_port hs
      exact ⟨hcaps, hport⟩
  | addAttr a v =>
    cases h
    split
    · exact ⟨rfl, rfl⟩
    · exact insertAttribute_caps_port a v s
  | serialize =>
    obtain ⟨_, _, _, _, _, _, _, _, _, _, _, _, _, rfl⟩ := serialize_frame ((exec_serialize_iff s t).1 h)
    exact ⟨rfl, rfl⟩

/-- Settles O55, by what a step can do: only a legal command needs an argument, and it keeps both by `exec_caps_port`. -/
theorem stepsKeepCapacitiesAndLaterEvents : Obligations.StepsKeepCapacitiesAndLaterEvents := by
  intro s t h
  obtain ⟨hp, rfl⟩ | ⟨_, _, _, _, hp, -, -, rfl⟩ | ⟨_, _, _, i, hp, -, -, hx⟩ | ⟨_, _, _, hp, -, rfl⟩ | ⟨_, hp, rfl⟩ :=
    step_cases h <;> rw [hp]
  · exact ⟨rfl, rfl⟩
  · exact ⟨rfl, rfl⟩
  · exact exec_caps_port hx
  · exact ⟨rfl, rfl⟩
  · exact ⟨rfl, rfl⟩

end Sys2Proof.Machine
end

section
/-!
PROOFS. What each command can do, said once (spec/40_control_commands.md, spec/41_attribute_commands.md; spec/60_exceptions.md
R275), and from it who writes each element of the state (spec/10_state.md R21 to R37).
-/

namespace Sys2Proof.Machine

/-! ### The effect of a command -/

/-- What a command other than `CLEAR` may make of the store `l`: nothing, or a new last entry that R160 to R167 let in. -/
inductive StoreGrows (c : Capacities) (l : List Attribute) : List Attribute → Prop
  | same : StoreGrows c l l
  | append (a : Word16) (v : Bytes) (hp : isProtected a = false) (hn : hasType a l = false)
      (hf : bodySize l + attrsize v ≤ bodyMax c) : StoreGrows c l (l ++ [⟨a, v⟩])

/-- What a successful command writes besides the store and the response: its operand, into its registers. -/
def writeOperand (i : Instr) (s : State) : State :=
  match i with
  | .setMethod m => { s with method := m, vMethod := true }
  | .setClass c => { s with cls := c, vClass := true }
  | .setTid w0 w1 w2 => { s with tid0 := w0, tid1 := w1, tid2 := w2, vTid := true }
  | .setFpEn f => { s with fpEn := f }
  | .setMiEn f => { s with miEn := f }
  | .setPassword p => { s with password := p }
  | .setAttrUsername p => { s with username := p }
  | .setAttrRealm p => { s with realm := p }
  | _ => s

/-- The operand of a credential command fits its buffer (R34). -/
def operandFits (c : Capacities) : Instr → Prop
  | .setPassword p => p.length ≤ credMax c
  | .setAttrUsername p => p.length ≤ credMax c
  | .setAttrRealm p => p.length ≤ credMax c
  | _ => True

/-- The builder commands that can raise an error (R271): those that need room in a buffer or in the store. -/
def mayRaise : Instr → Bool
  | .setPassword _ => true
  | .setAttrRequestedTransport => true
  | .setAttrLifetime _ => true
  | .setAttrUsername _ => true
  | .setAttrRealm _ => true
  | .setAttrNonce _ => true
  | .addAttr _ _ => true
  | _ => false

/-- Everything a command can do in the state `s`. -/
inductive CommandEffect (s : State) : Instr → State → Prop
  | cleared : CommandEffect s .clear (reportOk 0 (wipe s))
  | serialized {t : State} (h : serialize platformPrimitives s = .ok t) : CommandEffect s .serialize t
  | raised {i : Instr} (k : ErrorKind) (info : Word16) (hi : mayRaise i = true)
      (hk : k = .policyViolation ∨ k = .capacityExceeded) : CommandEffect s i (raiseError k info s)
  | done {i : Instr} (info : Word16) (l : List Attribute) (hi : isBuilder i = true) (hf : operandFits s.caps i)
      (hl : StoreGrows s.caps s.attr l) : CommandEffect s i (reportOk info (writeOperand i { s with attr := l }))

/-- The insertion of an unprotected type runs out of room, or succeeds with a store that may have grown (R160). -/
theorem insertAttribute_effect {a : Word16} (ha : isProtected a = false) (v : Bytes) (s : State) :
    insertAttribute a v s = raiseError .capacityExceeded 0 s
    ∨ ∃ l, StoreGrows s.caps s.attr l ∧ insertAttribute a v s = reportOk 0 { s with attr := l } := by
  rcases insertAttribute_cases a v s with ⟨h, -⟩ | ⟨h, -⟩ | ⟨h, hn, hf⟩
  · exact .inr ⟨_, .same, h⟩
  · exact .inl h
  · exact .inr ⟨_, .append a v ha hn hf, h⟩

/-- The same of the store half of the credential commands, which succeeds only if the credential fits (R170, R171). -/
theorem insertCredential_effect {a : Word16} (ha : isProtected a = false) (p : Bytes) (s : State) :
    insertCredential a p s = none
    ∨ p.length ≤ credMax s.caps
      ∧ ∃ l, StoreGrows s.caps s.attr l ∧ insertCredential a p s = some { s with attr := l } := by
  rcases insertCredential_cases a p s with ⟨h, -⟩ | ⟨h, hp, -⟩ | ⟨h, hp, hn, hf⟩
  · exact .inl h
  · exact .inr ⟨hp, _, .same, h⟩
  · exact .inr ⟨hp, _, .append a p ha hn hf, h⟩

/-- A command that ends in the insertion of an unprotected type and writes no register (R166 to R169, R172). -/
theorem CommandEffect.of_insertAttribute {i : Instr} {a : Word16} (ha : isProtected a = false) (v : Bytes) (s : State)
    (hr : mayRaise i = true) (hb : isBuilder i = true) (hf : operandFits s.caps i) (hw : ∀ u, writeOperand i u = u) :
    CommandEffect s i (insertAttribute a v s) := by
  rcases insertAttribute_effect ha v s with h | ⟨l, hl, h⟩ <;> rw [h]
  · exact .raised _ _ hr (.inr rfl)
  · have hd := CommandEffect.done 0 l hb hf hl
    rwa [hw] at hd

/-- The inversion lemma of `exec`: a command that ends has had one of these effects. -/
theorem exec_effect {i : Instr} {s t : State} (h : exec i s = .next t) : CommandEffect s i t := by
  cases i with
  | clear => cases h; exact .cleared
  | setMethod | setClass | setTid | setFpEn | setMiEn | getStatus => cases h; exact .done _ s.attr rfl trivial .same
  | setPassword p =>
    cases h
    split
    · exact .raised _ _ rfl (.inr rfl)
    · next hp => exact .done 0 s.attr rfl (Nat.not_lt.1 hp) .same
  | setAttrRequestedTransport | setAttrLifetime | setAttrNonce =>
    cases h; exact .of_insertAttribute rfl _ s rfl rfl trivial fun _ => rfl
  | setAttrUsername p =>
    cases h
    rcases insertCredential_effect (a := attrUsername) rfl p s with h | ⟨hp, l, hl, h⟩ <;> rw [h]
    · exact .raised _ _ rfl (.inr rfl)
    · exact .done 0 l rfl hp hl
  | setAttrRealm p =>
    cases h
    rcases insertCredential_effect (a := attrRealm) rfl p s with h | ⟨hp, l, hl, h⟩ <;> rw [h]
    · exact .raised _ _ rfl (.inr rfl)
    · exact .done 0 l rfl hp hl
  | addAttr a v =>
    cases h
    split
    · exact .raised _ _ rfl (.inl rfl)
    · next ha => exact .of_insertAttribute (by simpa using ha) v s rfl rfl trivial fun _ => rfl
  | serialize => exact .serialized ((exec_serialize_iff s t).1 h)

/-! ### What an operand leaves unchanged -/

section
variable (i : Instr) (s : State)

@[simp] theorem writeOperand_outValid : (writeOperand i s).outValid = s.outValid := by cases i <;> rfl
@[simp] theorem writeOperand_attr : (writeOperand i s).attr = s.attr := by cases i <;> rfl
@[simp] theorem writeOperand_obuf : (writeOperand i s).obuf = s.obuf := by cases i <;> rfl
@[simp] theorem writeOperand_olen : (writeOperand i s).olen = s.olen := by cases i <;> rfl
@[simp] theorem writeOperand_wp : (writeOperand i s).wp = s.wp := by cases i <;> rfl
@[simp] theorem writeOperand_phase : (writeOperand i s).phase = s.phase := by cases i <;> rfl
@[simp] theorem writeOperand_result : (writeOperand i s).result = s.result := by cases i <;> rfl
@[simp] theorem writeOperand_fpwd : (writeOperand i s).fpwd = s.fpwd := by cases i <;> rfl
@[simp] theorem writeOperand_key : (writeOperand i s).key = s.key := by cases i <;> rfl
@[simp] theorem writeOperand_digest : (writeOperand i s).digest = s.digest := by cases i <;> rfl
@[simp] theorem writeOperand_crcv : (writeOperand i s).crcv = s.crcv := by cases i <;> rfl
@[simp] theorem writeOperand_caps : (writeOperand i s).caps = s.caps := by cases i <;> rfl

end

/-- No error has the result code of success (R271). -/
theorem errorCode_ne_zero (k : ErrorKind) : errorCode k ≠ 0x00 := by cases k <;> decide

/-! ### The writers of each element -/

/-- Settles O49, by the effects of a command: the commands that can raise write no valid bit. -/
theorem validBitsAndTheirWriters : Obligations.ValidBitsAndTheirWriters := by
  intro i s t h
  cases exec_effect h with
  | cleared => exact ⟨rfl, rfl, rfl⟩
  | serialized h =>
    obtain ⟨_, _, _, _, _, _, _, _, _, _, _, _, _, rfl⟩ := serialize_frame h
    exact ⟨rfl, rfl, rfl⟩
  | raised k info hi =>
    cases i with
    | clear | setMethod | setClass | setTid | setFpEn | setMiEn | getStatus | serialize => cases hi
    | _ => exact ⟨rfl, rfl, rfl⟩
  | done info l hi =>
    cases i with
    | clear | serialize => cases hi
    | _ => exact ⟨rfl, rfl, rfl⟩

/-- Settles O50, by the effects of a command: the commands that can raise write no message register and no flag. -/
theorem messageRegistersAndTheirWriters : Obligations.MessageRegistersAndTheirWriters := by
  intro i s t h
  cases exec_effect h with
  | cleared => exact ⟨rfl, rfl, rfl, rfl, rfl, rfl, rfl⟩
  | serialized h =>
    obtain ⟨_, _, _, _, _, _, _, _, _, _, _, _, _, rfl⟩ := serialize_frame h
    exact ⟨rfl, rfl, rfl, rfl, rfl, rfl, rfl⟩
  | raised k info hi =>
    cases i with
    | clear | setMethod | setClass | setTid | setFpEn | setMiEn | getStatus | serialize => cases hi
    | _ => exact ⟨rfl, rfl, rfl, rfl, rfl, rfl, rfl⟩
  | done info l hi =>
    cases i with
    | clear | serialize => cases hi
    | _ => exact ⟨rfl, rfl, rfl, rfl, rfl, rfl, rfl⟩

/-- Settles O51, by the effects of a command: an error never has the result code of success, and success always has. -/
theorem credentialsAndTheirWriters : Obligations.CredentialsAndTheirWriters := by
  intro i s t h
  cases exec_effect h with
  | cleared => exact ⟨rfl, rfl, rfl⟩
  | serialized h =>
    obtain ⟨_, _, _, _, _, _, _, _, _, _, _, _, _, rfl⟩ := serialize_frame h
    exact ⟨rfl, rfl, rfl⟩
  | raised k info hi =>
    have hk := errorCode_ne_zero k
    cases i with
    | clear => cases hi
    | setAttrUsername => exact ⟨(if_neg hk).symm, rfl, rfl⟩
    | setAttrRealm => exact ⟨rfl, (if_neg hk).symm, rfl⟩
    | setPassword => exact ⟨rfl, rfl, (if_neg hk).symm⟩
    | _ => exact ⟨rfl, rfl, rfl⟩
  | done info l hi =>
    cases i with
    | clear => cases hi
    | _ => exact ⟨rfl, rfl, rfl⟩

/-- Settles O52, by the effects of a command: success leaves a store that has grown by one new entry at most. -/
theorem storedAttributesStay : Obligations.StoredAttributesStay := by
  intro i s t hi h
  cases exec_effect h with
  | cleared => exact absurd rfl hi
  | serialized h =>
    obtain ⟨_, _, _, _, _, _, _, _, _, _, _, _, _, rfl⟩ := serialize_frame h
    exact .inl rfl
  | raised => exact .inl rfl
  | done info l _ _ hl =>
    simp only [reportOk_attr, writeOperand_attr]
    cases hl with
    | same => exact .inl rfl
    | append a v _ hn => exact .inr ⟨⟨a, v⟩, rfl, (hasType_eq_false_iff a s.attr).1 hn⟩

/-- Settles O53, by the effects of a command: an operand is written into no element of the output and no scratch register. -/
theorem builderCommandsKeepTheOutput : Obligations.BuilderCommandsKeepTheOutput := by
  intro i s t hi h
  cases exec_effect h with
  | cleared | serialized => cases hi
  | raised => exact ⟨rfl, rfl, fun _ => rfl, rfl, rfl, rfl, rfl, rfl, rfl⟩
  | done => simp

end Sys2Proof.Machine
end

section
/-!
PROOFS. The three ways `SERIALIZE` can end (spec/42_serialize.md R199 to R202, R207), each as an equation, and that they depend
on the message only (R209, R210).
-/

namespace Sys2Proof.Machine

/-! ### The message -/

/-- Integrity is enabled and the filter rejects the password, or some bytes are the accepted password (R202). -/
theorem rejected_or_accepted (s : State) :
    (s.miEn = true ∧ ∃ i, passwordFilter s.password = .error i) ∨ ∃ f, PasswordAccepted s f := by
  by_cases hm : s.miEn = true
  · cases hp : passwordFilter s.password with
    | error i => exact .inl ⟨hm, i, rfl⟩
    | ok f => exact .inr ⟨f, fun _ => hp⟩
  · exact .inr ⟨[], fun h => absurd h hm⟩

/-- The key is no part of a message without integrity. -/
theorem wireMessage_key {s : State} (hm : s.miEn = false) (h : Primitives) (k k' : Bytes) :
    wireMessage h k s = wireMessage h k' s := by
  simp [wireMessage, wireBody, wireFingerprint, fingerprintData, hm]

/-- A message that fits has its finished form inside the buffer (R7, R35, R212). -/
theorem finalLength_le {s : State} (hb : bodySize s.attr ≤ bodyMax s.caps) : 20 + finalLength s ≤ obufBytes s.caps := by
  unfold finalLength obufBytes
  split <;> split <;> omega

/-- The finished message is a whole number of words (R65). -/
theorem finalLength_mod (s : State) : finalLength s % 4 = 0 := by
  have := bodySize_mod s.attr
  unfold finalLength
  split <;> split <;> omega

namespace SameMessage

variable {s u : State}

theorem configured (h : SameMessage s u) : Configured s ↔ Configured u := by
  obtain ⟨hm, hc, ht⟩ := h.valid
  simp only [Configured, hm, hc, ht]

theorem missingMask (h : SameMessage s u) : missingMask s = missingMask u := by
  obtain ⟨hm, hc, ht⟩ := h.valid
  simp only [Machine.missingMask, hm, hc, ht]

theorem finalLength (h : SameMessage s u) : finalLength s = finalLength u := by
  obtain ⟨hf, hm⟩ := h.enables
  simp only [Machine.finalLength, hf, hm, h.attr]

theorem wireHeader (h : SameMessage s u) (l : Nat) : wireHeader s l = wireHeader u l := by
  obtain ⟨h0, h1, h2⟩ := h.tid
  simp only [Machine.wireHeader, h.method, h.cls, h0, h1, h2]

theorem wireMessage (h : SameMessage s u) (p : Primitives) (k : Bytes) : wireMessage p k s = wireMessage p k u := by
  obtain ⟨hf, hm⟩ := h.enables
  simp only [Machine.wireMessage, wireFingerprint, fingerprintData, wireBody, wireIntegrity, integrityData, h.wireHeader,
    h.finalLength, h.attr, hf, hm]

end SameMessage

/-! ### The phases that write the message -/

/-- The phases `MI` and `FP` complete the header and the framed entries to the wire message (R205, R206, R236, R239). -/
theorem trailers_built {s t : State} (p : Primitives) (hb : bodySize s.attr ≤ bodyMax s.caps)
    (ht : Built s (wireHeader s (bodySize s.attr) ++ wireAttributes s.attr) t) :
    ∃ t₁ t₂, integrityPhase p t = .ok t₁ ∧ fingerprintPhase p t₁ = .ok t₂ ∧ Built s (wireMessage p s.key s) t₂ := by
  have hn : obufBytes s.caps = 20 + bodyMax s.caps + 32 := rfl
  have hi : ∃ t₁, integrityPhase p t = .ok t₁ ∧ Built s
      (wireHeader s (bodySize s.attr + if s.miEn = true then 24 else 0) ++ wireBody p s.key s) t₁ := by
    cases hm : s.miEn with
    | false => exact ⟨t, integrityPhase_off p hm ht, by simpa [wireBody, hm] using ht⟩
    | true =>
      obtain ⟨t₁, h₁, hb₁⟩ := integrityPhase_built p hm ht (by simp; omega)
      exact ⟨t₁, h₁, by simpa [wireBody, wireIntegrity, integrityData, hm] using hb₁⟩
  obtain ⟨t₁, h₁, hb₁⟩ := hi
  cases hf : s.fpEn with
  | false => exact ⟨t₁, t₁, h₁, fingerprintPhase_off p hf hb₁, by simpa [wireMessage, finalLength, hf] using hb₁⟩
  | true =>
    have hl : (wireBody p s.key s).length + 8 = finalLength s := by
      cases hm : s.miEn <;> simp [wireBody, finalLength, hm, hf]
    obtain ⟨t₂, h₂, hb₂⟩ := fingerprintPhase_built p hf hb₁ (by have := finalLength_le hb; omega)
    rw [hl] at hb₂
    exact ⟨t₁, t₂, h₁, h₂, by simpa [wireMessage, wireFingerprint, fingerprintData, hf] using hb₂⟩

/-- The phases that write the message build the wire message and finish it (R203 to R207). -/
theorem writeMessage_built (p : Primitives) (s : State) (ho : s.obuf = []) (hb : bodySize s.attr ≤ bodyMax s.caps) :
    ∃ t, writeMessage p s = .ok (reportOk (BitVec.ofNat 16 (finalLength s)) (finishOutput t))
      ∧ Built s (wireMessage p s.key s) t := by
  have hn := finalLength_le hb
  obtain ⟨t₁, h₁, hb₁⟩ := writeHeader_built s .hdr ho
  obtain ⟨t₂, h₂, hb₂⟩ := emitAttrs_built hb₁ .attrs s.attr (by simp [obufBytes]; omega)
  rw [← hb₁.attr] at h₂
  obtain ⟨t₃, t₄, h₃, h₄, hb₄⟩ := trailers_built p hb hb₂
  refine ⟨t₄, ?_, hb₄⟩
  have hw : t₄.wp.toNat - 20 = finalLength s := by
    have := obufBytes_le s.caps
    rw [hb₄.wp, length_wireMessage, BitVec.toNat_ofNat, Nat.mod_eq_of_lt (by omega)]
    omega
  simp only [writeMessage, bind, Except.bind, h₁, h₂, h₃, h₄, pure, Except.pure, finishOutput, hw]

/-! ### The three ends of `SERIALIZE` -/

/-- The state a successful `SERIALIZE` leaves when `f` is the accepted password (R207, R208). -/
def serialized (p : Primitives) (f : Bytes) (s : State) : State :=
  freeScratch (reportOk (BitVec.ofNat 16 (finalLength s)) { s with
    phase := .idle
    outValid := true
    olen := BitVec.ofNat 17 (20 + finalLength s)
    wp := BitVec.ofNat 17 (20 + finalLength s)
    obuf := obufOfBytes 0 (wireMessage p (hmacKey p s.username s.realm f) s) })

/-- The state a failed `SERIALIZE` leaves (R200, R201, R202). -/
def serializeFailed (k : ErrorKind) (info : Word16) (s : State) : State :=
  freeScratch (raiseError k info (startOutput s))

/-- A message that is not configured (R201). -/
theorem serialize_unconfigured (p : Primitives) {s : State} (hc : ¬ Configured s) :
    serialize p s = .ok (serializeFailed .notConfigured (missingMask s) s) := by
  have hm : missingMask (startOutput s) ≠ 0 := fun h => hc ((missingMask_eq_zero (startOutput s)).1 h)
  unfold serialize
  exact if_pos hm

/-- A password that the filter rejects (R202, R274). -/
theorem serialize_rejected (p : Primitives) {s : State} {i : Nat} (hc : Configured s) (hm : s.miEn = true)
    (hf : passwordFilter s.password = .error i) :
    serialize p s = .ok (serializeFailed .credentialFormatError (BitVec.ofNat 16 i) s) := by
  have hz : missingMask (startOutput s) = 0 := (missingMask_eq_zero (startOutput s)).2 hc
  have hk : keyPhase p (startOutput s) = .error i := by simp [keyPhase, deriveKey, hm, hf]
  simp [serialize, hz, hk, serializeFailed]

/-- Phase `KEY` with an accepted password: the key is the derived one where the message has one (R202, R234). -/
theorem keyPhase_accepted (p : Primitives) {s : State} {f : Bytes} (ha : PasswordAccepted s f) :
    ∃ ph fp k, keyPhase p s = .ok { s with phase := ph, fpwd := fp, key := k }
      ∧ wireMessage p k s = wireMessage p (hmacKey p s.username s.realm f) s := by
  by_cases hm : s.miEn = true
  · exact ⟨.key, f, hmacKey p s.username s.realm f, by simp [keyPhase, deriveKey, hm, ha hm], rfl⟩
  · exact ⟨s.phase, s.fpwd, s.key, if_neg hm, wireMessage_key (by simpa using hm) ..⟩

/-- A configured message with an accepted password that fits the buffer (R199, R207, R212). -/
theorem serialize_accepted (p : Primitives) {s : State} {f : Bytes} (hc : Configured s) (ha : PasswordAccepted s f)
    (hb : bodySize s.attr ≤ bodyMax s.caps) : serialize p s = .ok (serialized p f s) := by
  have hz : missingMask (startOutput s) = 0 := (missingMask_eq_zero (startOutput s)).2 hc
  obtain ⟨ph, fp, k, hk, hkey⟩ := keyPhase_accepted p (s := startOutput s) ha
  obtain ⟨t, hw, ht⟩ := writeMessage_built p { startOutput s with phase := ph, fpwd := fp, key := k } rfl hb
  obtain ⟨o, w, _, d, c, rfl⟩ := ht.rest
  have ho : o = obufOfBytes 0 (wireMessage p (hmacKey p s.username s.realm f) s) :=
    ht.obuf.trans (congrArg (obufOfBytes 0) hkey)
  have hwp : w = BitVec.ofNat 17 (20 + finalLength s) := ht.wp.trans (congrArg (BitVec.ofNat 17) (length_wireMessage ..))
  subst ho hwp
  simp only [serialize, hz, hk, hw, Except.map]
  rfl

/-- Everything `SERIALIZE` can do with a store that fits (R199): it fails for what is missing, it fails for the password,
or it produces the message. -/
theorem serialize_cases (p : Primitives) {s : State} (hb : bodySize s.attr ≤ bodyMax s.caps) :
    (¬ Configured s ∧ serialize p s = .ok (serializeFailed .notConfigured (missingMask s) s))
    ∨ (∃ i, Configured s ∧ s.miEn = true ∧ passwordFilter s.password = .error i
        ∧ serialize p s = .ok (serializeFailed .credentialFormatError (BitVec.ofNat 16 i) s))
    ∨ ∃ f, Configured s ∧ PasswordAccepted s f ∧ serialize p s = .ok (serialized p f s) := by
  by_cases hc : Configured s
  · rcases rejected_or_accepted s with ⟨hm, i, hi⟩ | ⟨f, ha⟩
    · exact .inr (.inl ⟨i, hc, hm, hi, serialize_rejected p hc hm hi⟩)
    · exact .inr (.inr ⟨f, hc, ha, serialize_accepted p hc ha hb⟩)
  · exact .inl ⟨hc, serialize_unconfigured p hc⟩

/-! ### The output is a function of the message -/

/-- `SERIALIZE`, whether it succeeds or fails, keeps the message (R209). -/
theorem serialize_sameMessage {p : Primitives} {s t : State} (h : serialize p s = .ok t) : SameMessage s t := by
  obtain ⟨_, _, _, _, _, _, _, _, _, _, _, _, _, rfl⟩ := serialize_frame h
  exact ⟨rfl, rfl, ⟨rfl, rfl, rfl⟩, ⟨rfl, rfl, rfl⟩, ⟨rfl, rfl⟩, rfl, rfl, rfl, rfl, rfl⟩

/-- The same message gives the same output bytes, length and response (R210). -/
theorem serialize_of_sameMessage {p : Primitives} {s u t : State} (hsu : SameMessage s u)
    (hb : bodySize s.attr ≤ bodyMax s.caps) (h : serialize p s = .ok t) :
    ∃ v, serialize p u = .ok v ∧ v.obuf = t.obuf ∧ v.olen = t.olen ∧ v.outValid = t.outValid ∧ v.result = t.result
      ∧ v.info = t.info := by
  obtain ⟨-, hmi⟩ := hsu.enables
  rcases serialize_cases p hb with ⟨hc, e⟩ | ⟨i, hc, hm, hi, e⟩ | ⟨f, hc, ha, e⟩ <;> cases e.symm.trans h
  · refine ⟨_, serialize_unconfigured p (mt hsu.configured.2 hc), rfl, rfl, rfl, rfl, ?_⟩
    exact hsu.missingMask.symm
  · exact ⟨_, serialize_rejected p (hsu.configured.1 hc) (hmi ▸ hm) (hsu.password ▸ hi), rfl, rfl, rfl, rfl, rfl⟩
  · have ha' : PasswordAccepted u f := fun hm => hsu.password ▸ ha (hmi.trans hm)
    refine ⟨_, serialize_accepted p (hsu.configured.1 hc) ha' (hsu.attr ▸ hsu.caps ▸ hb), ?_⟩
    simp [serialized, hsu.finalLength, hsu.wireMessage, hsu.username, hsu.realm]

/-- Settles O45: the first `SERIALIZE` keeps the message, so the second serializes the same one. -/
theorem serializeTwiceGivesTheSameOutput : Obligations.SerializeTwiceGivesTheSameOutput := by
  intro s t hb h
  have hs := (exec_serialize_iff s t).1 h
  obtain ⟨u, hu, hout⟩ := serialize_of_sameMessage (serialize_sameMessage hs) hb hs
  exact ⟨u, (exec_serialize_iff t u).2 hu, hout⟩

end Sys2Proof.Machine
end

section
/-!
PROOFS. The invariants of the state (spec/10_state.md R20 to R36, spec/20_memory.md R65 to R69, spec/42_serialize.md R196): they
hold at reset, and every step keeps them.
-/

namespace Sys2Proof.Machine

/-! ### The state after reset -/

/-- Settles O11: every value is a field of `State.reset`, and `CLEAR` puts the same ones. -/
theorem resetStateIsTheTable : Obligations.ResetStateIsTheTable := by
  have hclear : ∀ s t : State, exec .clear s = .next t →
      t = { State.reset with caps := t.caps, port := t.port, portOut := t.portOut, draws := t.draws } := by
    intro s t h; cases h; rfl
  exact ⟨rfl, rfl, rfl, rfl, rfl, rfl, rfl, rfl, rfl, rfl, rfl, rfl, rfl, rfl, rfl, rfl, fun _ => rfl, fun _ => rfl,
    rfl, rfl, rfl, rfl, rfl, rfl, rfl, rfl, hclear⟩

/-- The reset values have the invariants, whatever the capacities, the events and the draws (R40). -/
theorem wipe_inv (s : State) : Inv (wipe s) where
  idle := rfl
  store := ⟨.nil, by simp, by simp, Nat.zero_le _⟩
  buffers := ⟨Nat.zero_le _, Nat.zero_le _, Nat.zero_le _, Nat.zero_le _, Nat.zero_le _⟩
  output := ⟨fun _ => ⟨rfl, rfl⟩, fun h => by cases h⟩
  registers := ⟨fun _ => rfl, fun _ => rfl, fun _ => ⟨rfl, rfl, rfl⟩⟩
  result := .head _

/-- Settles O57: the reset state is its own wiped state. -/
theorem resetHasTheInvariants : Obligations.ResetHasTheInvariants :=
  wipe_inv State.reset

/-! ### The invariants speak of their own elements only -/

theorem StoreInv.of_eq {s t : State} (h : StoreInv s) (ha : t.attr = s.attr) (hc : t.caps = s.caps) : StoreInv t := by
  obtain ⟨hd, hu, hl, hf⟩ := h
  exact ⟨by rwa [ha], by rwa [ha], by rwa [ha], by rwa [ha, hc]⟩

theorem OutputInv.of_eq {s t : State} (h : OutputInv s) (hv : t.outValid = s.outValid) (hl : t.olen = s.olen)
    (ho : t.obuf = s.obuf) (hc : t.caps = s.caps) : OutputInv t := by
  obtain ⟨habsent, hpresent⟩ := h
  exact ⟨by rwa [hv, hl, ho], by rwa [hv, hl, ho, hc]⟩

theorem RegistersInv.of_eq {s t : State} (h : RegistersInv s)
    (hv : t.vMethod = s.vMethod ∧ t.vClass = s.vClass ∧ t.vTid = s.vTid) (hm : t.method = s.method) (hc : t.cls = s.cls)
    (ht : t.tid0 = s.tid0 ∧ t.tid1 = s.tid1 ∧ t.tid2 = s.tid2) : RegistersInv t := by
  obtain ⟨hmethod, hcls, htid⟩ := h
  obtain ⟨hvm, hvc, hvt⟩ := hv
  obtain ⟨ht0, ht1, ht2⟩ := ht
  exact ⟨by rwa [hvm, hm], by rwa [hvc, hc], by rwa [hvt, ht0, ht1, ht2]⟩

theorem BuffersInv.of_eq {s t : State} (h : BuffersInv s) (hu : t.username = s.username) (hr : t.realm = s.realm)
    (hp : t.password = s.password) (hf : t.fpwd = s.fpwd) (hk : t.key = s.key) (hc : t.caps = s.caps) : BuffersInv t := by
  obtain ⟨husername, hrealm, hpassword, hfpwd, hkey⟩ := h
  exact ⟨by rwa [hu, hc], by rwa [hr, hc], by rwa [hp, hc], by rwa [hf, hc], by rwa [hk, hc]⟩

namespace Inv

variable {s : State}

/-- Events and responses are not in the invariants, but the code must be a produced one and the block idle (R36, R271). -/
theorem respond (h : Inv s) {p : Phase} {r : BitVec 8} (hp : p = .idle) (hr : r ∈ producedCodes) (info : Word16)
    (rest : List PortEvent) (o : PortOut) :
    Inv { s with phase := p, result := r, info := info, port := rest, portOut := o } where
  idle := hp
  store := h.store.of_eq rfl rfl
  buffers := h.buffers.of_eq rfl rfl rfl rfl rfl rfl
  output := h.output.of_eq rfl rfl rfl rfl
  registers := h.registers.of_eq ⟨rfl, rfl, rfl⟩ rfl rfl ⟨rfl, rfl, rfl⟩
  result := hr

theorem reportOk (h : Inv s) (info : Word16) : Inv (reportOk info s) :=
  h.respond h.idle (.head _) info s.port _

theorem raiseError (h : Inv s) {k : ErrorKind} (hk : errorCode k ∈ producedCodes) (info : Word16) :
    Inv (raiseError k info s) :=
  h.respond rfl hk info s.port _

/-- The free values of the scratch registers are within their widths (R20, R37). -/
theorem freeScratch (h : Inv s) : Inv (freeScratch s) where
  idle := h.idle
  store := h.store.of_eq rfl rfl
  buffers :=
    have ⟨husername, hrealm, hpassword, _, _⟩ := h.buffers
    ⟨husername, hrealm, hpassword, List.length_take_le .., List.length_take_le ..⟩
  output := h.output.of_eq rfl rfl rfl rfl
  registers := h.registers.of_eq ⟨rfl, rfl, rfl⟩ rfl rfl ⟨rfl, rfl, rfl⟩
  result := h.result

/-- A new output replaces the old one (R30, R35). -/
theorem withOutput (h : Inv s) {v : Bool} {l w : Offset} {o : List Host.Cell}
    (ho : OutputInv { s with outValid := v, olen := l, wp := w, obuf := o }) :
    Inv { s with outValid := v, olen := l, wp := w, obuf := o } where
  idle := h.idle
  store := h.store.of_eq rfl rfl
  buffers := h.buffers.of_eq rfl rfl rfl rfl rfl rfl
  output := ho
  registers := h.registers.of_eq ⟨rfl, rfl, rfl⟩ rfl rfl ⟨rfl, rfl, rfl⟩
  result := h.result

end Inv

/-! ### Builder commands -/

/-- What R160 to R167 let into the store keeps R32 (a) to (d): the type is new and unprotected, and the value fits. -/
theorem StoreGrows.storeInv {s : State} {l : List Attribute} (hg : StoreGrows s.caps s.attr l) (h : StoreInv s) :
    StoreInv { s with attr := l } := by
  cases hg with
  | same => exact h
  | append a v hp hn hf =>
    obtain ⟨hdistinct, hunprotected, hlengths, -⟩ := h
    have hnew : ∀ b ∈ s.attr, b.code ≠ a := (hasType_eq_false_iff a s.attr).1 hn
    have hlen : v.length ≤ 65535 := by
      have := bodyMax_le s.caps
      unfold attrsize at hf
      omega
    constructor
    · simpa [List.nodup_append, hdistinct] using hnew
    · simpa [or_imp, forall_and, hp] using hunprotected
    · simpa [or_imp, forall_and, hlen] using hlengths
    · simpa [bodySize_append, bodySize] using hf

/-- A store that has grown so keeps the invariants. -/
theorem StoreGrows.inv {s : State} {l : List Attribute} (hg : StoreGrows s.caps s.attr l) (h : Inv s) :
    Inv { s with attr := l } where
  idle := h.idle
  store := hg.storeInv h.store
  buffers := h.buffers.of_eq rfl rfl rfl rfl rfl rfl
  output := h.output.of_eq rfl rfl rfl rfl
  registers := h.registers.of_eq ⟨rfl, rfl, rfl⟩ rfl rfl ⟨rfl, rfl, rfl⟩
  result := h.result

/-- An operand within its buffer keeps the buffers within their capacities (R34). -/
theorem writeOperand_buffersInv {i : Instr} {s : State} (hf : operandFits s.caps i) (h : BuffersInv s) :
    BuffersInv (writeOperand i s) := by
  obtain ⟨husername, hrealm, hpassword, hfpwd, hkey⟩ := h
  cases i with
  | setPassword => exact ⟨husername, hrealm, hf, hfpwd, hkey⟩
  | setAttrUsername => exact ⟨hf, hrealm, hpassword, hfpwd, hkey⟩
  | setAttrRealm => exact ⟨husername, hf, hpassword, hfpwd, hkey⟩
  | _ => exact ⟨husername, hrealm, hpassword, hfpwd, hkey⟩

/-- A command that writes a message register sets its valid bit (R24). -/
theorem writeOperand_registersInv (i : Instr) {s : State} (h : RegistersInv s) : RegistersInv (writeOperand i s) := by
  obtain ⟨hmethod, hcls, htid⟩ := h
  cases i with
  | setMethod => exact ⟨nofun, hcls, htid⟩
  | setClass => exact ⟨hmethod, nofun, htid⟩
  | setTid => exact ⟨hmethod, hcls, nofun⟩
  | _ => exact ⟨hmethod, hcls, htid⟩

/-- An operand that fits keeps the invariants. -/
theorem writeOperand_inv {i : Instr} {s : State} (h : Inv s) (hf : operandFits s.caps i) : Inv (writeOperand i s) where
  idle := by simp [h.idle]
  store := h.store.of_eq (by simp) (by simp)
  buffers := writeOperand_buffersInv hf h.buffers
  output := h.output.of_eq (by simp) (by simp) (by simp) (by simp)
  registers := writeOperand_registersInv i h.registers
  result := by simp [h.result]

/-! ### `SERIALIZE` -/

/-- A failed `SERIALIZE` leaves no output (R200). -/
theorem serializeFailed_inv {s : State} (h : Inv s) {k : ErrorKind} (hk : errorCode k ∈ producedCodes) (info : Word16) :
    Inv (serializeFailed k info s) :=
  have hs : Inv (startOutput s) := h.withOutput ⟨fun _ => ⟨rfl, rfl⟩, nofun⟩
  (hs.raiseError hk info).freeScratch

/-- The Message Length stands in bytes 2 and 3 of the message (R71, R196). -/
theorem wireMessage_lengthField (p : Primitives) (k : Bytes) (s : State) :
    ((wireMessage p k s).drop 2).take 2 = be16 (BitVec.ofNat 16 (finalLength s)) := rfl

/-- The wire message is a valid output: a whole number of words, within the buffer, with a right length field (R65, R196). -/
theorem wireMessage_outputInv (p : Primitives) (k : Bytes) {s t : State} (hb : bodySize s.attr ≤ bodyMax s.caps)
    (hv : t.outValid = true) (hl : t.olen = BitVec.ofNat 17 (20 + finalLength s))
    (ho : t.obuf = obufOfBytes 0 (wireMessage p k s)) (hc : t.caps = s.caps) : OutputInv t := by
  have hle := finalLength_le hb
  have hmod := finalLength_mod s
  have hmax := obufBytes_le s.caps
  have hlen := length_wireMessage p k s
  refine ⟨fun h => by simp [hv] at h, fun _ => ⟨wireMessage p k s, ho, ?_, by omega, by rw [hc]; omega, by omega, ?_⟩⟩
  · rw [hl, hlen, BitVec.toNat_ofNat, Nat.mod_eq_of_lt (by omega)]
  · rw [hlen, Nat.add_sub_cancel_left, wireMessage_lengthField]

/-- A successful `SERIALIZE` leaves a valid output (R207). -/
theorem serialized_inv {s : State} (h : Inv s) (p : Primitives) (f : Bytes) : Inv (serialized p f s) :=
  have hi : Inv { s with phase := .idle } := h.respond rfl h.result s.info s.port s.portOut
  have ho := hi.withOutput (wireMessage_outputInv p (hmacKey p s.username s.realm f) h.store.fits rfl rfl rfl rfl)
  (ho.reportOk _).freeScratch

/-- `SERIALIZE` keeps the invariants. -/
theorem serialize_inv {p : Primitives} {s t : State} (h : Inv s) (hs : serialize p s = .ok t) : Inv t := by
  rcases serialize_cases p h.store.fits with ⟨-, e⟩ | ⟨_, -, -, -, e⟩ | ⟨f, -, -, e⟩ <;> cases e.symm.trans hs
  · exact serializeFailed_inv h (by decide) _
  · exact serializeFailed_inv h (by decide) _
  · exact serialized_inv h p f

/-! ### Every step -/

/-- Every command keeps the invariants. -/
theorem exec_inv {i : Instr} {s t : State} (h : Inv s) (hx : exec i s = .next t) : Inv t := by
  cases exec_effect hx with
  | cleared => exact (wipe_inv s).reportOk 0
  | serialized hs => exact serialize_inv h hs
  | raised k info _ hk =>
    refine h.raiseError ?_ info
    rcases hk with rfl | rfl <;> decide
  | done info l _ hf hl => exact (writeOperand_inv (hl.inv h) hf).reportOk info

/-- Settles O56: commands keep the invariants by `exec_inv`, `Reset` has them, and the other steps only answer. -/
theorem stepKeepsTheInvariants : Obligations.StepKeepsTheInvariants := by
  intro s t h hstep
  obtain ⟨-, rfl⟩ | ⟨_, _, rest, _, -, -, -, rfl⟩ | ⟨_, _, rest, i, -, -, -, hx⟩ | ⟨_, rest, b, -, -, rfl⟩ | ⟨rest, -, rfl⟩ :=
    step_cases hstep
  · exact h
  · exact h.respond rfl (by decide) _ rest _
  · exact exec_inv (h.respond h.idle h.result s.info rest s.portOut) hx
  · exact h.respond h.idle h.result s.info rest (.data b)
  · exact wipe_inv { s with port := rest }

end Sys2Proof.Machine
end

section
/-!
PROOFS. The canonical form of the output buffer (spec/10_state.md R35, spec/20_memory.md R67, R68) is kept by every step, in every
state: a write that would break it faults.
-/

namespace Sys2Proof.Machine

/-! ### Computations that end in the canonical form -/

/-- Where the computation ends in a state, that state's buffer is in canonical form. -/
def EndsCanonical (x : Except Fault State) : Prop :=
  ∀ t, x = .ok t → Memory.wf t = true

namespace EndsCanonical

theorem pure {s : State} (hs : Memory.wf s = true) : EndsCanonical (.ok s) := by
  intro t h; cases h; exact hs

theorem write {s : State} (hs : Memory.wf s = true) {a : Nat} {bs : Bytes} : EndsCanonical (memWriteBytes a bs s) :=
  fun _ h => memWriteBytes_wf h hs

theorem bind {x : Except Fault State} {f : State → Except Fault State} (hx : EndsCanonical x)
    (hf : ∀ u, Memory.wf u = true → EndsCanonical (f u)) : EndsCanonical (x >>= f) := by
  intro t h
  obtain ⟨u, hu, h⟩ := bind_ok h
  exact hf u (hx u hu) t h

theorem bind_value {α : Type} {x : Except Fault α} {f : α → Except Fault State} (hf : ∀ v, EndsCanonical (f v)) :
    EndsCanonical (x >>= f) := by
  intro t h
  obtain ⟨v, -, h⟩ := bind_ok h
  exact hf v t h

theorem map {x : Except Fault State} {f : State → State} (hx : EndsCanonical x)
    (hf : ∀ u, Memory.wf u = true → Memory.wf (f u) = true) : EndsCanonical (x.map f) := by
  cases x with
  | error => intro t h; cases h
  | ok u => exact pure (hf u (hx u rfl))

end EndsCanonical

/-! ### The phases of `SERIALIZE` -/

section
variable {s : State} (hs : Memory.wf s = true)
include hs

theorem writeHeader_canonical : EndsCanonical (writeHeader s) :=
  .bind (.write hs) fun _ h => .bind (.write h) fun _ h => .bind (.write h) fun _ h => .bind (.write h) fun _ h =>
    .bind (.write h) fun _ h => .bind (.write h) fun _ h => .pure h

theorem emitAttr_canonical (a : Attribute) : EndsCanonical (emitAttr a s) :=
  .bind (.write hs) fun _ h => .bind (.write h) fun _ h => .bind (.write h) fun _ h => .bind (.write h) fun _ h => .pure h

theorem emitAttrs_canonical (l : List Attribute) : EndsCanonical (emitAttrs l s) := by
  induction l generalizing s with
  | nil => exact .pure hs
  | cons a l ih => exact .bind (emitAttr_canonical hs a) fun _ h => ih h

theorem appendIntegrity_canonical (p : Primitives) : EndsCanonical (appendIntegrity p s) :=
  .bind (.write hs) fun u h => .bind_value fun d =>
    .bind (.write (s := { u with digest := p.hmacSha1 u.key d }) h) fun _ h => .bind (.write h) fun _ h =>
    .bind (.write h) fun _ h => .pure h

theorem appendFingerprint_canonical (p : Primitives) : EndsCanonical (appendFingerprint p s) :=
  .bind (.write hs) fun u h => .bind_value fun d =>
    .bind (.write (s := { u with crcv := p.crc32 d }) h) fun _ h => .bind (.write h) fun _ h =>
    .bind (.write h) fun _ h => .pure h

theorem integrityPhase_canonical (p : Primitives) : EndsCanonical (integrityPhase p s) := by
  unfold integrityPhase
  split
  · exact appendIntegrity_canonical (s := { s with phase := .mi }) hs p
  · exact .pure hs

theorem fingerprintPhase_canonical (p : Primitives) : EndsCanonical (fingerprintPhase p s) := by
  unfold fingerprintPhase
  split
  · exact appendFingerprint_canonical (s := { s with phase := .fp }) hs p
  · exact .pure hs

theorem writeMessage_canonical (p : Primitives) : EndsCanonical (writeMessage p s) :=
  .bind (writeHeader_canonical (s := { s with phase := .hdr }) hs) fun u h =>
    .bind (emitAttrs_canonical (s := { u with phase := .attrs }) h u.attr) fun _ h =>
    .bind (integrityPhase_canonical h p) fun _ h => .bind (fingerprintPhase_canonical h p) fun _ h => .pure h

end

/-- `SERIALIZE` starts with an empty buffer, so what it leaves is canonical whatever it began with (R200). -/
theorem serialize_canonical (p : Primitives) (s : State) : EndsCanonical (serialize p s) := by
  have hs : Memory.wf (startOutput s) = true := rfl
  unfold serialize
  dsimp only
  split
  · exact .pure hs
  · split
    · exact .pure hs
    · next u hu =>
      have hu : Memory.wf u = true := by obtain ⟨_, _, _, rfl⟩ := keyPhase_frame hu; exact hs
      exact .map (writeMessage_canonical hu p) fun _ h => h

/-! ### Every step -/

/-- Every command keeps the canonical form. -/
theorem exec_canonical {i : Instr} {s t : State} (hs : Memory.wf s = true) (h : exec i s = .next t) :
    Memory.wf t = true := by
  cases exec_effect h with
  | cleared => rfl
  | serialized h => exact serialize_canonical platformPrimitives s t h
  | raised => exact hs
  | done => simpa [Memory.wf] using hs

/-- Settles O58: only a legal command and `Reset` touch the buffer. -/
theorem stepKeepsTheBufferCanonical : Obligations.StepKeepsTheBufferCanonical := by
  intro s t hs hstep
  obtain ⟨-, rfl⟩ | ⟨_, _, rest, _, -, -, -, rfl⟩ | ⟨_, _, rest, i, -, -, -, hx⟩ | ⟨_, rest, b, -, -, rfl⟩ | ⟨rest, -, rfl⟩ :=
    step_cases hstep
  · exact hs
  · exact hs
  · exact exec_canonical (s := { s with port := rest }) hs hx
  · exact hs
  · rfl

end Sys2Proof.Machine
end

section
/-!
PROOFS. The output as the host finds it (spec/20_memory.md R61, R70, R71, R79): the read port gives its bytes, and the map of the
buffer after a successful `SERIALIZE` (spec/30_encoding.md R103).
-/

namespace Sys2Proof.Machine

/-! ### The output read port -/

/-- A step whose first event is a read serves it, without the event (R77). -/
theorem step_readOut {s : State} {i : Offset} {rest : List PortEvent} (hp : s.port = .readOut i :: rest) :
    step s = readOutput i { s with port := rest } := by
  simp [step, serve, hp]

/-- Below `OLEN` the port of an idle block reads the output's byte (R79). -/
theorem outRead_inside {s : State} {bs : Bytes} {i : Offset} (hv : s.outValid = true) (hi : s.phase = .idle)
    (ho : s.obuf = obufOfBytes 0 bs) (hl : s.olen.toNat = bs.length) (h : i.toNat < bs.length) :
    outRead i s = some bs[i.toNat] := by
  have hlt : i < s.olen := by rw [BitVec.lt_def, hl]; exact h
  have hr : obufRead s.obuf i.toNat = bs[i.toNat]? := by rw [ho]; simpa using obufRead_ofBytes 0 bs i.toNat
  rw [outRead, if_pos ⟨hv, hi, hlt⟩, hr, List.getElem?_eq_getElem h]

/-- Without a valid output, during a command, and from `OLEN` on, no byte can be read (R79, U1). -/
theorem outRead_outside {s : State} {i : Offset} (h : s.outValid = false ∨ s.phase ≠ .idle ∨ s.olen ≤ i) :
    outRead i s = none := by
  refine if_neg fun ⟨hv, hi, hlt⟩ => ?_
  rcases h with h | h | h
  · simp [hv] at h
  · exact h hi
  · exact BitVec.not_le.2 hlt h

/-- Settles O13: the step is the port's read, inside the output or outside it. -/
theorem outputReadPortGivesTheOutput : Obligations.OutputReadPortGivesTheOutput := by
  intro s i rest hp
  rw [step_readOut hp]
  constructor
  · intro bs hv hi ho hl h
    simp [readOutput, outRead_inside (s := { s with port := rest }) hv hi ho hl h]
  · intro h
    simp [readOutput, outRead_outside (s := { s with port := rest }) h]

/-! ### The map of the output buffer -/

/-- A `SERIALIZE` that ends with success leaves the state of the finished message (R207, R208). -/
theorem exec_serialize_success {s t : State} (hb : bodySize s.attr ≤ bodyMax s.caps) (h : exec .serialize s = .next t)
    (hr : t.result = 0x00) : ∃ f, PasswordAccepted s f ∧ t = serialized platformPrimitives f s := by
  have hs := (exec_serialize_iff s t).1 h
  rcases serialize_cases platformPrimitives hb with ⟨-, e⟩ | ⟨i, -, -, -, e⟩ | ⟨f, -, ha, e⟩ <;> cases e.symm.trans hs
  · exact absurd hr (errorCode_ne_zero .notConfigured)
  · exact absurd hr (errorCode_ne_zero .credentialFormatError)
  · exact ⟨f, ha, rfl⟩

@[simp] theorem serialized_obuf (p : Primitives) (f : Bytes) (s : State) :
    (serialized p f s).obuf = obufOfBytes 0 (wireMessage p (hmacKey p s.username s.realm f) s) := rfl

/-- `OLEN` is the size of the finished message: its 17 bits hold every size that fits the buffer (R60, R71). -/
theorem serialized_olen (p : Primitives) (f : Bytes) {s : State} (hb : bodySize s.attr ≤ bodyMax s.caps) :
    (serialized p f s).olen.toNat = 20 + finalLength s := by
  have hle := finalLength_le hb
  have hmax := obufBytes_le s.caps
  exact (BitVec.toNat_ofNat ..).trans (Nat.mod_eq_of_lt (by omega))

/-- Bytes `k` up to `k + n` of the buffer are those of the wire message (R71). -/
theorem obufReadBytes_serialized (p : Primitives) (f : Bytes) {s : State} {k n : Nat} (h : k + n ≤ 20 + finalLength s) :
    obufReadBytes (serialized p f s).obuf k n
      = some (((wireMessage p (hmacKey p s.username s.realm f) s).drop k).take n) := by
  simpa using obufReadBytes_ofBytes 0 (wireMessage p (hmacKey p s.username s.realm f) s) k n (by rwa [length_wireMessage])

/-- The framed stored attributes follow the 20 bytes of the header (R71). -/
theorem wireMessage_attributes (p : Primitives) (k : Bytes) (s : State) :
    ((wireMessage p k s).drop 20).take (bodySize s.attr) = wireAttributes s.attr := by
  simp [wireMessage, wireBody, List.append_assoc]

/-- Settles O41: each field is a piece of the wire message, the header's fields at literal offsets. -/
theorem outputBufferMap : Obligations.OutputBufferMap := by
  intro s t hb h hr
  obtain ⟨f, -, rfl⟩ := exec_serialize_success hb h hr
  have hbody : bodySize s.attr ≤ finalLength s := by unfold finalLength; omega
  have hread {k n : Nat} (hkn : k + n ≤ 20 + bodySize s.attr) :=
    obufReadBytes_serialized platformPrimitives f (hkn.trans (Nat.add_le_add_left hbody 20))
  rw [serialized_olen _ f hb, Nat.add_sub_cancel_left]
  refine ⟨hread (by omega), hread (by omega), hread (by omega), hread (by omega), hread (by omega), hread (by omega), ?_, ?_⟩
  · rw [hread le_rfl, wireMessage_attributes]
    rfl
  · unfold finalLength; omega

end Sys2Proof.Machine
end

section
/-!
PROOFS. The command encoding (spec/30_encoding.md R90 to R96): the operands of a command survive the way into bits and
back, and the ranges of R94 as numbers.
-/

namespace Sys2Proof.Machine

/-! ### From a command to bits and back -/

/-- The operands the encoder writes for a well-formed command are legal: the family `OperandsAreLegal` over all commands. -/
theorem encodedOperands_legal (i : Instr) : Laws.OperandsAreLegal.Statement i := by
  cases i with
  | clear => exact Laws.OperandsAreLegal.clear
  | setMethod m => exact Laws.OperandsAreLegal.setMethod m
  | setClass c => exact Laws.OperandsAreLegal.setClass c
  | setTid w0 w1 w2 => exact Laws.OperandsAreLegal.setTid w0 w1 w2
  | setFpEn f => exact Laws.OperandsAreLegal.setFpEn f
  | setMiEn f => exact Laws.OperandsAreLegal.setMiEn f
  | setPassword p => exact Laws.OperandsAreLegal.setPassword p
  | getStatus => exact Laws.OperandsAreLegal.getStatus
  | setAttrRequestedTransport => exact Laws.OperandsAreLegal.setAttrRequestedTransport
  | setAttrLifetime n => exact Laws.OperandsAreLegal.setAttrLifetime n
  | setAttrUsername p => exact Laws.OperandsAreLegal.setAttrUsername p
  | setAttrRealm p => exact Laws.OperandsAreLegal.setAttrRealm p
  | setAttrNonce p => exact Laws.OperandsAreLegal.setAttrNonce p
  | addAttr t v => exact Laws.OperandsAreLegal.addAttr t v
  | serialize => exact Laws.OperandsAreLegal.serialize

/-- A narrower operand is read back from the low bits of the immediate that holds it (R94). -/
theorem extractLsb'_zeroExtend {n : Nat} (x : BitVec n) (hn : n ≤ 16) : (x.zeroExtend 16).extractLsb' 0 n = x := by
  rw [BitVec.zeroExtend_eq_setWidth, BitVec.extractLsb'_setWidth_of_le (by omega), BitVec.extractLsb'_eq_self]

/-- The operand assembled from the immediate and the payload that spell a command is the command's (R94). -/
theorem assemble_operandsOf (i : Instr) : assemble (opcodeOf i) (immediateOf i) (payloadOf i) = i := by
  cases i with
  | setMethod m => exact congrArg Instr.setMethod (extractLsb'_zeroExtend m (by decide))
  | setClass c => exact congrArg Instr.setClass (extractLsb'_zeroExtend c (by decide))
  | setFpEn f | setMiEn f => cases f <;> rfl
  | setTid w0 w1 w2 =>
    simp [assemble, opcodeOf, payloadOf, List.append_assoc, payloadWord_succ]
  | setAttrLifetime n => simp [assemble, opcodeOf, payloadOf]
  | _ => rfl

/-- Settles O1: the encoded command passes the five tests, and its operands are those assembled. -/
theorem decodeOfEncodeIsTheCommand : Obligations.DecodeOfEncodeIsTheCommand := by
  intro i hi
  obtain ⟨himm, hlen, hmax⟩ := encodedOperands_legal i hi
  have hp : (payloadOf i).length = (BitVec.ofNat 16 (payloadOf i).length).toNat := by
    rw [BitVec.toNat_ofNat, Nat.mod_eq_of_lt (Nat.lt_succ_of_le hmax)]
  rw [encode, decode_of_opcode (fieldOpc_makeDescriptor ..)]
  simp [himm, hlen, ← hp, assemble_operandsOf]

/-! ### The ranges of R94 as numbers -/

/-- The bits of a 16-bit number from bit `k` up are zero exactly when it is below `2 ^ k`. -/
theorem extractLsb'_top_eq_zero (a : Word16) (k n : Nat) (h : k + n = 16) : a.extractLsb' k n = 0 ↔ a.toNat < 2 ^ k := by
  have ha : a.toNat / 2 ^ k < 2 ^ n := by
    rw [Nat.div_lt_iff_lt_mul (Nat.two_pow_pos k), ← Nat.pow_add, Nat.add_comm, h]; exact a.isLt
  rw [← BitVec.toNat_inj, BitVec.extractLsb'_toNat, Nat.shiftRight_eq_div_pow, Nat.mod_eq_of_lt ha]
  simp [Nat.div_eq_zero_iff]

/-- An immediate is legal exactly when it is not above the largest of its opcode (R94, R95 test 3). -/
theorem immediateLegal_iff (o : Opcode) (a : Word16) : immediateLegal o a = true ↔ a.toNat ≤ maxImmediate o := by
  cases o with
  | setMethod => simpa [immediateLegal, maxImmediate, Nat.lt_succ_iff] using extractLsb'_top_eq_zero a 12 4 rfl
  | setClass => simpa [immediateLegal, maxImmediate, Nat.lt_succ_iff] using extractLsb'_top_eq_zero a 2 14 rfl
  | setFpEn | setMiEn =>
    simpa [immediateLegal, maxImmediate, Nat.lt_succ_iff] using extractLsb'_top_eq_zero a 1 15 rfl
  | addAttr => simpa [immediateLegal, maxImmediate] using Nat.le_of_lt_succ a.isLt
  | _ => simp [immediateLegal, maxImmediate, ← BitVec.toNat_inj]

/-- A payload length is legal exactly when it is the one of its opcode, where that has one (R94, R95 test 4). -/
theorem lengthLegal_iff (o : Opcode) (b : Word16) :
    lengthLegal o b = true ↔ ∀ n, payloadLength o = some n → b.toNat = n := by
  cases o <;> simp [lengthLegal, payloadLength, ← BitVec.toNat_inj]

/-- Settles O5: the decoder's tests, with the ranges as numbers. -/
theorem illegalCommandTestsInOrder : Obligations.IllegalCommandTestsInOrder := by
  intro d p
  refine ⟨fun hnone => ?_, fun o ho => ?_⟩
  · have hb : opcodeOfByte (fieldOpc d) = none :=
      Option.eq_none_iff_forall_ne_some.2 fun o h => hnone o ((opcodeOfByte_eq_some _ o).1 h)
    simp [decode, hb]
  · have himm := immediateLegal_iff o (fieldA d)
    have hlen := lengthLegal_iff o (fieldB d)
    rw [decode_of_opcode ho]
    refine ⟨fun hrsv => if_pos hrsv, fun hrsv ha => ?_, fun hrsv ha => ⟨?_, fun hb => ⟨fun hp => ?_, fun hp => ?_⟩⟩⟩
    · have hillegal : immediateLegal o (fieldA d) = false := by
        rw [← Bool.not_eq_true, himm]; exact Nat.not_le.2 ha
      simp [hrsv, hillegal]
    · rintro ⟨n, hn, hne⟩
      have hillegal : lengthLegal o (fieldB d) = false := by
        rw [← Bool.not_eq_true, hlen]; exact fun h => hne (h n hn)
      simp [hrsv, himm.2 ha, hillegal]
    · simp [hrsv, himm.2 ha, hlen.2 hb, hp]
    · exact ⟨assemble o (fieldA d) p, by simp [hrsv, himm.2 ha, hlen.2 hb, hp], opcodeOf_assemble o (fieldA d) p⟩

/-! ### From bits to a command and back -/

/-- A legal immediate is the one that spells the operand assembled from it (R94, R96: nothing is truncated). -/
theorem immediateOf_assemble {o : Opcode} {a : Word16} (h : immediateLegal o a = true) (p : Bytes) :
    immediateOf (assemble o a p) = a := by
  have hle := (immediateLegal_iff o a).1 h
  apply BitVec.eq_of_toNat_eq
  cases o with
  | setMethod | setClass =>
    simp only [maxImmediate] at hle
    simp only [immediateOf, assemble, BitVec.zeroExtend_eq_setWidth, BitVec.toNat_setWidth, BitVec.extractLsb'_toNat]
    omega
  | setFpEn | setMiEn =>
    simp only [maxImmediate] at hle
    obtain h0 | h1 : a.toNat = 0 ∨ a.toNat = 1 := by omega
    · simp [immediateOf, assemble, BitVec.getLsbD, h0]
    · simp [immediateOf, assemble, BitVec.getLsbD, h1]
  | addAttr => rfl
  | _ => exact (Nat.le_zero.1 hle).symm

/-- Four bytes at the start of a payload are those of a word (R94). -/
theorem exists_be32_append {p : Bytes} (h : 4 ≤ p.length) : ∃ w r, p = be32 w ++ r := by
  match p, h with
  | b0 :: b1 :: b2 :: b3 :: r, _ => exact ⟨word32 b0 b1 b2 b3, r, by simp⟩

/-- A payload of legal length is the one that spells the operand assembled from it (R94). -/
theorem payloadOf_assemble {o : Opcode} {p : Bytes} (h : ∀ n, payloadLength o = some n → p.length = n) (a : Word16) :
    payloadOf (assemble o a p) = p := by
  cases o with
  | setTid =>
    have hp : p.length = 12 := h 12 rfl
    obtain ⟨w0, p, rfl⟩ := exists_be32_append (p := p) (by omega)
    obtain ⟨w1, p, rfl⟩ := exists_be32_append (p := p) (by simp at hp; omega)
    obtain ⟨w2, p, rfl⟩ := exists_be32_append (p := p) (by simp at hp; omega)
    obtain rfl : p = [] := List.eq_nil_of_length_eq_zero (by simp at hp; omega)
    simp [payloadOf, assemble, payloadWord_succ]
  | setAttrLifetime =>
    have hp : p.length = 4 := h 4 rfl
    obtain ⟨w, p, rfl⟩ := exists_be32_append hp.ge
    obtain rfl : p = [] := List.eq_nil_of_length_eq_zero (by simpa using hp)
    simp [payloadOf, assemble]
  | setPassword | setAttrUsername | setAttrRealm | setAttrNonce | addAttr => rfl
  | _ => exact (List.eq_nil_of_length_eq_zero (h 0 rfl)).symm

/-- A payload that fits the field `B` makes a command well-formed. -/
theorem wellFormed_of_payloadOf {i : Instr} (h : (payloadOf i).length ≤ maxPayload) : i.wellFormed = true := by
  cases i with
  | setPassword | setAttrUsername | setAttrRealm | setAttrNonce | addAttr => exact decide_eq_true h
  | _ => rfl

/-- Settles O2: the five tests leave no bit that the operands do not spell. -/
theorem encodeOfDecodeIsTheDescriptor : Obligations.EncodeOfDecodeIsTheDescriptor := by
  intro d p i h
  obtain ⟨o, hopc, hrsv, himm, hlen, hp, rfl⟩ := decode_ok h
  have ha : immediateOf (assemble o (fieldA d) p) = fieldA d := immediateOf_assemble himm p
  have hpay : payloadOf (assemble o (fieldA d) p) = p :=
    payloadOf_assemble (fun n hn => hp.trans ((lengthLegal_iff o _).1 hlen n hn)) _
  have hB : BitVec.ofNat 16 p.length = fieldB d := by rw [hp, BitVec.ofNat_toNat, BitVec.setWidth_eq]
  have hd : makeDescriptor o (fieldA d) (fieldB d) = d := ((eq_makeDescriptor d o _ _).2 ⟨hopc, hrsv, rfl, rfl⟩).symm
  refine ⟨wellFormed_of_payloadOf ?_, ?_⟩
  · rw [hpay, hp]; exact Nat.le_of_lt_succ (fieldB d).isLt
  · rw [encode, opcodeOf_assemble, ha, hpay, hB, hd]

end Sys2Proof.Machine
end

section
/-!
PROOFS. The table of R100 (spec/30_encoding.md): its rows written from the ranges of R94, and which descriptors select them.
-/

namespace Sys2Proof.Machine

/-- No two opcodes share a byte (R100). -/
theorem opcodeByte_injective {o o' : Opcode} (h : opcodeByte o = opcodeByte o') : o = o' := by
  have ho := (opcodeOfByte_eq_some (opcodeByte o) o).2 rfl
  have ho' := (opcodeOfByte_eq_some (opcodeByte o) o').2 h
  exact Option.some.inj (ho.symm.trans ho')

/-- The mask of the field `A`: the bits above those of the largest immediate (R94, R100). -/
def immediateMask (o : Opcode) : Word16 := ~~~BitVec.ofNat 16 (maxImmediate o)

/-- The mask of the field `B`: all of it where the opcode has one payload length, none of it otherwise (R94, R100). -/
def lengthMask (o : Opcode) : Word16 := if (payloadLength o).isSome then BitVec.allOnes 16 else 0

/-- The payload length a row asks for, where it asks for one (R94, R100). -/
def lengthMatch (o : Opcode) : Word16 := BitVec.ofNat 16 ((payloadLength o).getD 0)

/-- The row of an opcode, written from the ranges of R94. -/
def tableRow (o : Opcode) : TableRow :=
  ⟨o, makeDescriptor o 0 (lengthMatch o), BitVec.allOnes 8 ++ BitVec.allOnes 24 ++ immediateMask o ++ lengthMask o⟩

/-- The table has the row of each opcode, and no other row. -/
theorem mem_opcodeTable {r : TableRow} : r ∈ opcodeTable ↔ r = tableRow r.opcode := by
  constructor
  · revert r; decide
  · intro h
    rw [h]
    cases r.opcode <;> decide

/-- Masking the bits of `m` away leaves nothing exactly when all bits lie in `m`. -/
theorem and_not_eq_zero (a m : Word16) : a &&& ~~~m = 0 ↔ a &&& m = a := by
  rw [BitVec.eq_of_getLsbD_eq_iff, BitVec.eq_of_getLsbD_eq_iff]
  refine forall₂_congr fun i hi => ?_
  simp [hi]

/-- The largest immediate of an opcode is all the bits it has (R94). -/
theorem maxImmediate_eq (o : Opcode) : ∃ k ≤ 16, maxImmediate o = 2 ^ k - 1 := by
  cases o with
  | setMethod => exact ⟨12, by decide, rfl⟩
  | setClass => exact ⟨2, by decide, rfl⟩
  | setFpEn | setMiEn => exact ⟨1, by decide, rfl⟩
  | addAttr => exact ⟨16, by decide, rfl⟩
  | _ => exact ⟨0, by decide, rfl⟩

/-- The masked immediate is zero exactly when the immediate is legal. -/
theorem and_immediateMask (o : Opcode) (a : Word16) : a &&& immediateMask o = 0 ↔ immediateLegal o a = true := by
  obtain ⟨k, hk, hmax⟩ := maxImmediate_eq o
  have hpos := Nat.two_pow_pos k
  have hle : 2 ^ k ≤ 2 ^ 16 := Nat.pow_le_pow_right (by decide) hk
  rw [immediateLegal_iff, immediateMask, and_not_eq_zero, hmax, ← BitVec.toNat_inj, BitVec.toNat_and, BitVec.toNat_ofNat,
    Nat.mod_eq_of_lt (by omega), Nat.and_two_pow_sub_one_eq_mod, Nat.mod_eq_iff_lt hpos.ne']
  omega

/-- The masked payload length is the row's exactly when the length is legal. -/
theorem and_lengthMask (o : Opcode) (b : Word16) : b &&& lengthMask o = lengthMatch o ↔ lengthLegal o b = true := by
  cases o <;> simp [lengthMask, lengthMatch, payloadLength, lengthLegal, -BitVec.reduceAllOnes]

/-- Everything the descriptor of a legal command with the opcode `o` has to be (R95 tests 1 to 4). -/
def DescriptorLegal (o : Opcode) (d : Descriptor) : Prop :=
  fieldOpc d = opcodeByte o ∧ fieldRsv d = 0 ∧ immediateLegal o (fieldA d) = true ∧ lengthLegal o (fieldB d) = true

/-- Words put together from two parts are equal exactly when the parts are. -/
theorem append_eq_append_iff {v w : Nat} (x x' : BitVec v) (y y' : BitVec w) : x ++ y = x' ++ y' ↔ x = x' ∧ y = y' := by
  refine ⟨fun h => ⟨?_, ?_⟩, fun ⟨hx, hy⟩ => by rw [hx, hy]⟩
  · simpa only [BitVec.extractLsb'_append_eq_left] using congrArg (BitVec.extractLsb' w v) h
  · simpa only [BitVec.extractLsb'_append_eq_right] using congrArg (BitVec.extractLsb' 0 w) h

/-- The mask of a row keeps `OPC` and `RSV` and masks the fields `A` and `B`. -/
theorem and_tableRow_mask (o : Opcode) (d : Descriptor) : d &&& (tableRow o).mask =
    fieldOpc d ++ fieldRsv d ++ (fieldA d &&& immediateMask o) ++ (fieldB d &&& lengthMask o) := by
  conv_lhs => rw [← descriptor_of_fields d]
  exact BitVec.and_append.trans (by rw [BitVec.and_append, BitVec.and_append, BitVec.and_allOnes, BitVec.and_allOnes])

/-- A descriptor selects the row of an opcode exactly when it passes the first four tests with it. -/
theorem rowSelects_tableRow (o : Opcode) (d : Descriptor) : rowSelects (tableRow o) d = true ↔ DescriptorLegal o d := by
  have hvalue : (tableRow o).value = makeDescriptor o 0 (lengthMatch o) := rfl
  rw [rowSelects, beq_iff_eq, and_tableRow_mask, hvalue, makeDescriptor, append_eq_append_iff, append_eq_append_iff,
    append_eq_append_iff, and_immediateMask, and_lengthMask, and_assoc, and_assoc, DescriptorLegal]

/-- A command is legal exactly when its descriptor is legal for some opcode, and its payload has `B` bytes (R95). -/
theorem decode_isOk_iff (d : Descriptor) (p : Bytes) :
    (∃ i, decode d p = .ok i) ↔ p.length = (fieldB d).toNat ∧ ∃ o, DescriptorLegal o d := by
  constructor
  · rintro ⟨i, h⟩
    obtain ⟨o, hopc, hrsv, himm, hlen, hp, -⟩ := decode_ok h
    exact ⟨hp, o, hopc, hrsv, himm, hlen⟩
  · rintro ⟨hp, o, hopc, hrsv, himm, hlen⟩
    exact ⟨assemble o (fieldA d) p, by simp [decode_of_opcode hopc, hrsv, himm, hlen, hp]⟩

/-- A descriptor that selects a row of the table has the row's opcode byte. -/
theorem fieldOpc_of_rowSelects {r : TableRow} (hr : r ∈ opcodeTable) {d : Descriptor} (hs : rowSelects r d = true) :
    fieldOpc d = opcodeByte r.opcode := by
  rw [mem_opcodeTable.1 hr] at hs
  exact ((rowSelects_tableRow _ d).1 hs).1

/-- Settles O3: selecting the row of an opcode is passing the first four tests with it, and the fifth is the
payload's length. -/
theorem legalCommandsAreTheTableRows : Obligations.LegalCommandsAreTheTableRows := by
  intro d p
  refine ⟨?_, fun i h r hr hs => ?_⟩
  · rw [decode_isOk_iff]
    refine and_congr_right fun _ => ⟨fun ⟨o, ho⟩ => ⟨tableRow o, mem_opcodeTable.2 rfl, (rowSelects_tableRow o d).2 ho⟩, ?_⟩
    rintro ⟨r, hr, hs⟩
    rw [mem_opcodeTable.1 hr] at hs
    exact ⟨_, (rowSelects_tableRow _ d).1 hs⟩
  · obtain ⟨o, hopc, -, -, -, -, rfl⟩ := decode_ok h
    rw [opcodeOf_assemble]
    exact opcodeByte_injective ((fieldOpc_of_rowSelects hr hs).symm.trans hopc)

/-- Settles O4: the rows have distinct opcodes, and a descriptor has one opcode byte. -/
theorem tableRowsAreDisjoint : Obligations.TableRowsAreDisjoint := by
  refine ⟨rfl, ?_⟩
  have hdistinct : opcodeTable.Pairwise fun r q => r.opcode ≠ q.opcode := by decide
  refine hdistinct.imp_of_mem fun hr hq hne d ⟨hsr, hsq⟩ => hne ?_
  exact opcodeByte_injective ((fieldOpc_of_rowSelects hr hsr).symm.trans (fieldOpc_of_rowSelects hq hsq))

end Sys2Proof.Machine
end

section
/-!
PROOFS. The equivalences between the commands that store an entry and `ADD_ATTR` (spec/30_encoding.md R102).
-/

namespace Sys2Proof.Machine

/-- `ADD_ATTR` with an unprotected type only inserts (R166, R167). -/
theorem exec_addAttr_unprotected {a : Word16} (ha : isProtected a = false) (v : Bytes) (s : State) :
    exec (.addAttr a v) s = .next (insertAttribute a v s) := by
  simp [exec, execAddAttr, ha]

/-- A command that changes a credential username or realm is no `ADD_ATTR` in that state: no `ADD_ATTR` changes them
(R102, R34). -/
theorem exec_ne_addAttr {i : Instr} {s t : State} (h : exec i s = .next t)
    (hw : t.username ≠ s.username ∨ t.realm ≠ s.realm) (a : Word16) (v : Bytes) : exec i s ≠ exec (.addAttr a v) s := by
  intro he
  obtain ⟨husername, hrealm, -⟩ := credentialsAndTheirWriters (.addAttr a v) s t (he.symm.trans h)
  exact hw.elim (absurd husername) (absurd hrealm)

/-- The reset state of a block with `BODY_MAX` = 32 and `CRED_MAX` = 16 (R7, R40). -/
def roomyReset : State := { State.reset with caps := ⟨8, 16⟩ }

/-- Settles O27: the fixed types are unprotected, so `ADD_ATTR` only inserts; and a credential of one byte, given to
`roomyReset`, is written into its buffer. -/
theorem equivalencesBetweenCommands : Obligations.EquivalencesBetweenCommands := by
  refine ⟨fun s => ?_, fun n s => ?_, fun p s => ?_, ⟨[0x61], roomyReset, ?_⟩, ⟨[0x61], roomyReset, ?_⟩⟩
  · exact (exec_addAttr_unprotected (a := attrRequestedTransport) rfl requestedTransportUdp s).symm
  · exact (exec_addAttr_unprotected (a := attrLifetime) rfl (be32 n) s).symm
  · exact (exec_addAttr_unprotected (a := attrNonce) rfl p s).symm
  · exact exec_ne_addAttr rfl (.inl (by decide))
  · exact exec_ne_addAttr rfl (.inr (by decide))

end Sys2Proof.Machine
end

section
/-!
PROOFS. The message type (spec/42_serialize.md R191, spec/30_encoding.md R104, R110).
-/

namespace Sys2Proof.Machine

/-- A group of bits taken from a number by a shift and a mask, as R191 does, is that piece of the number. -/
theorem shiftRight_and_mask {w k n : Nat} (x : BitVec w) (hw : w ≤ 16) (hn : n ≤ 16) :
    (x.zeroExtend 16 >>> k) &&& BitVec.ofNat 16 (2 ^ n - 1) = (x.extractLsb' k n).setWidth 16 := by
  have hx : x.toNat < 2 ^ 16 := x.isLt.trans_le (Nat.pow_le_pow_right (by decide) hw)
  have hmask : 2 ^ n ≤ 2 ^ 16 := Nat.pow_le_pow_right (by decide) hn
  have hgroup : x.toNat >>> k % 2 ^ n < 2 ^ n := Nat.mod_lt _ (Nat.two_pow_pos n)
  apply BitVec.eq_of_toNat_eq
  rw [BitVec.toNat_and, BitVec.toNat_ofNat, Nat.mod_eq_of_lt (by omega), Nat.and_two_pow_sub_one_eq_mod]
  simp only [BitVec.toNat_ushiftRight, BitVec.zeroExtend_eq_setWidth, BitVec.toNat_setWidth, BitVec.extractLsb'_toNat]
  rw [Nat.mod_eq_of_lt hx, Nat.mod_eq_of_lt (hgroup.trans_le hmask)]

/-- Settles O29: the five groups that the algorithm shifts in from the top are the pieces, appended in that order. -/
theorem messageTypeBitLayout : Obligations.MessageTypeBitLayout := by
  intro m c
  have hM11 := shiftRight_and_mask (k := 7) (n := 5) m (by decide) (by decide)
  have hC1 := shiftRight_and_mask (k := 1) (n := 1) c (by decide) (by decide)
  have hM6 := shiftRight_and_mask (k := 4) (n := 3) m (by decide) (by decide)
  have hC0 := shiftRight_and_mask (k := 0) (n := 1) c (by decide) (by decide)
  have hM3 := shiftRight_and_mask (k := 0) (n := 4) m (by decide) (by decide)
  refine Eq.trans ?_ (BitVec.setWidth_eq _)
  repeat rw [BitVec.setWidth_append_eq_shiftLeft_setWidth_or]
  rw [← hM11, ← hC1, ← hM6, ← hC0, ← hM3]
  simp [packType]

/-- Settles O31: the table of R110 row by row, a closed evaluation of the packing. -/
theorem namedMessageTypes : Obligations.NamedMessageTypes := by
  unfold Obligations.NamedMessageTypes
  decide

end Sys2Proof.Machine
end

section
/-!
PROOFS. The control and field commands (spec/40_control_commands.md R131 to R139): what each changes, and which descriptors
and payloads are its own.
-/

namespace Sys2Proof.Machine

/-! ### The end of a command and its spelling -/

/-- A command that ends by reporting success answers with code 0x00 (R11, R92). -/
theorem next_reportOk (info : Word16) (s : State) :
    (.next (reportOk info s) : Host.Outcome State Fault Refusal) = .next (answered 0x00 info s) := rfl

/-- The legal descriptor and payload of a command are those that encode it, and no others (R90, R93, R94). -/
theorem decode_eq_ok_iff {d : Descriptor} {p : Bytes} {i : Instr} :
    decode d p = .ok i ↔ i.wellFormed = true ∧ encode i = (d, p) := by
  refine ⟨encodeOfDecodeIsTheDescriptor d p i, fun ⟨hwf, henc⟩ => ?_⟩
  have hdec := decodeOfEncodeIsTheCommand i hwf
  rwa [henc] at hdec

/-- The same, of a command that is always well-formed, with its spelling written out. -/
theorem decode_eq_ok_iff_of_encode {d d' : Descriptor} {p p' : Bytes} {i : Instr} (hwf : i.wellFormed = true)
    (henc : encode i = (d', p')) : decode d p = .ok i ↔ d = d' ∧ p = p' := by
  rw [decode_eq_ok_iff, henc, Prod.mk.injEq, eq_comm (a := d'), eq_comm (a := p')]
  exact and_iff_right hwf

/-- An immediate that holds a narrower operand spells the operand in its low bits, with zeros up to the opcode (R90, R94). -/
theorem makeDescriptor_zeroExtend {n : Nat} (hn : n ≤ 16) (o : Opcode) (x : BitVec n) (b : Word16) :
    (makeDescriptor o (x.zeroExtend 16) b).toNat = (opcodeByte o ++ (0 : BitVec (40 - n)) ++ x ++ b).toNat := by
  have hx : x.toNat < 2 ^ 16 := x.isLt.trans_le (Nat.pow_le_pow_right (by decide) hn)
  have hwidth : 40 - n + n = 24 + 16 := by omega
  simp only [makeDescriptor, BitVec.toNat_append, BitVec.zeroExtend_eq_setWidth, BitVec.toNat_setWidth,
    Nat.mod_eq_of_lt hx, BitVec.ofNat_eq_ofNat, BitVec.toNat_ofNat, Nat.zero_mod, Nat.or_zero, ← Nat.shiftLeft_add, hwidth]

/-! ### The `STATUS` word (R27) -/

/-- The lowest bit of a word that ends in a flag is the flag. -/
@[simp] theorem getLsbD_append_ofBool_zero {n : Nat} (x : BitVec n) (f : Bool) : (x ++ BitVec.ofBool f).getLsbD 0 = f := by
  rw [BitVec.getLsbD_append]
  simp

/-- The other bits of a word that ends in a flag are those before the flag, one place up. -/
@[simp] theorem getLsbD_append_ofBool_succ {n : Nat} (x : BitVec n) (f : Bool) (k : Nat) :
    (x ++ BitVec.ofBool f).getLsbD (k + 1) = x.getLsbD k := by
  rw [BitVec.getLsbD_append]
  simp

/-- `STATUS` is 0 at the reset values, whatever the capacities, the events and the draws (R27, R40). -/
@[simp] theorem statusWord_wipe (s : State) : statusWord (wipe s) = 0 := by
  simp [statusWord, hasUsername]

/-- A response changes no bit of `STATUS`. -/
@[simp] theorem statusWord_reportOk (info : Word16) (s : State) : statusWord (reportOk info s) = statusWord s := rfl

/-- Settles O20: the word ends in seven flags with zeros before them, so a bit is found by taking flags off its end. -/
theorem getStatusReportsTheFlags : Obligations.GetStatusReportsTheFlags := by
  intro s
  have hzero (k : Nat) (hk : 7 ≤ k) : (statusWord s).getLsbD k = false := by
    obtain ⟨k, rfl⟩ := Nat.exists_eq_add_of_le' hk
    simp [statusWord]
  refine ⟨statusWord s, next_reportOk (statusWord s) s, ?_, ?_, ?_, ?_, ?_, ?_, ?_, hzero⟩
  all_goals simp [statusWord, hasUsername, -BitVec.getLsbD_eq_getElem]

/-! ### The reset command -/

/-- Settles O14: `CLEAR` wipes the state and answers, and its descriptor and payload are the encoder's. -/
theorem clearReturnsToTheResetState : Obligations.ClearReturnsToTheResetState := by
  refine ⟨fun s => next_reportOk 0 (wipe s), fun s t h => ?_, fun d p => decode_eq_ok_iff_of_encode rfl (by decide)⟩
  cases h
  rw [statusWord_reportOk, statusWord_wipe]

/-! ### The commands that assign a register -/

/-- Settles O15: the rule is an assignment and an answer, and the encoder puts the method into the low bits of `A`. -/
theorem setMethodAssigns : Obligations.SetMethodAssigns := by
  refine ⟨fun m s => next_reportOk 0 _, fun d p m => decode_eq_ok_iff_of_encode rfl ?_⟩
  exact Prod.ext (BitVec.eq_of_toNat_eq (makeDescriptor_zeroExtend (by decide) .setMethod m 0)) rfl

/-- Settles O16: the rule is an assignment and an answer, and the encoder puts the class into the low bits of `A`. -/
theorem setClassAssigns : Obligations.SetClassAssigns := by
  refine ⟨fun c s => next_reportOk 0 _, fun d p c => decode_eq_ok_iff_of_encode rfl ?_⟩
  exact Prod.ext (BitVec.eq_of_toNat_eq (makeDescriptor_zeroExtend (by decide) .setClass c 0)) rfl

/-- Settles O17: the rule is an assignment and an answer, and the encoder's descriptor is the same for every id: it only says
that twelve bytes follow. -/
theorem setTidAssigns : Obligations.SetTidAssigns := by
  have hd : makeDescriptor .setTid 0 12 = 0x040000000000000C := by decide
  exact ⟨fun w0 w1 w2 s => next_reportOk 0 _,
    fun d p w0 w1 w2 => decode_eq_ok_iff_of_encode rfl (Prod.ext hd rfl)⟩

/-- Settles O18: both rules are an assignment and an answer. -/
theorem enableCommandsAssignTheirFlag : Obligations.EnableCommandsAssignTheirFlag :=
  fun _ _ => ⟨next_reportOk 0 _, next_reportOk 0 _⟩

/-- Settles O19: a payload that fits is not refused, and the rest is an assignment and an answer. -/
theorem setPasswordStoresTheBytes : Obligations.SetPasswordStoresTheBytes := by
  intro p s hp
  have hfits : ¬ credMax s.caps < p.length := hp.not_gt
  exact (congrArg Host.Outcome.next (if_neg hfits)).trans (next_reportOk 0 _)

/-! ### The examples of the spec -/

/-- Settles O6: a closed evaluation of the decoder, example by example. -/
theorem specExampleDescriptorsDecode : Obligations.SpecExampleDescriptorsDecode := by
  unfold Obligations.SpecExampleDescriptorsDecode
  decide

end Sys2Proof.Machine
end


section
/-!
PROOFS. The attribute commands (spec/41_attribute_commands.md R160 to R172): the three ends of an insertion, of a bare entry
and of a credential, and from them what each command answers and changes.
-/

namespace Sys2Proof.Machine

/-! ### The end of a command -/

/-- A command that ends by raising an error answers with the error's code, and the block is idle (R92, R275). -/
theorem next_raiseError (k : ErrorKind) (info : Word16) (s : State) :
    (.next (raiseError k info s) : Host.Outcome State Fault Refusal)
      = .next (answered (errorCode k) info { s with phase := .idle }) := rfl

/-! ### Sizes and spellings of the entries -/

/-- A type that is neither MESSAGE-INTEGRITY nor FINGERPRINT is not protected (R167). -/
theorem isProtected_eq_false {t : Word16} (h1 : t ≠ 0x0008) (h2 : t ≠ 0x8028) : isProtected t = false :=
  Bool.eq_false_iff.2 fun h => ((isProtected_iff t).1 h).elim h1 h2

/-- An entry with a four-byte value needs no padding (R33). -/
theorem attrsize_of_length_four {v : Bytes} (h : v.length = 4) : attrsize v = 8 := by
  simp [attrsize, padding, h]

/-- The bytes of `be32` by shifts: each is the number shifted down and cut to eight bits (R11). -/
theorem be32_eq_shifts (n : Word32) :
    be32 n = [(n >>> 24).setWidth 8, (n >>> 16).setWidth 8, (n >>> 8).setWidth 8, n.setWidth 8] := by
  simp [be32, BitVec.setWidth_ushiftRight_eq_extractLsb, BitVec.setWidth_eq_extractLsb' (x := n)]

/-! ### The three ends of `ADD_ATTR` with an unprotected type (R160 to R166) -/

section
variable {t : Word16} {v : Bytes} {s : State}

/-- A present type is ignored with success, whatever the capacity (R161). -/
theorem exec_addAttr_present (hp : isProtected t = false) (h : ∃ a ∈ s.attr, a.code = t) :
    exec (.addAttr t v) s = .next (answered 0x00 0 s) := by
  rw [exec_addAttr_unprotected hp, insertAttribute, storeInsert_present ((hasType_iff t s.attr).2 h), next_reportOk]

/-- A new entry that fits goes to the end of the store (R162). -/
theorem exec_addAttr_fits (hp : isProtected t = false) (hn : ∀ a ∈ s.attr, a.code ≠ t)
    (hf : bodySize s.attr + attrsize v ≤ bodyMax s.caps) :
    exec (.addAttr t v) s = .next (answered 0x00 0 { s with attr := s.attr ++ [⟨t, v⟩] }) := by
  rw [exec_addAttr_unprotected hp, insertAttribute, storeInsert_fits ((hasType_eq_false_iff t s.attr).2 hn) hf,
    next_reportOk]

/-- A new entry that does not fit raises `CapacityExceeded` (R163). -/
theorem exec_addAttr_full (hp : isProtected t = false) (hn : ∀ a ∈ s.attr, a.code ≠ t)
    (hf : bodyMax s.caps < bodySize s.attr + attrsize v) :
    exec (.addAttr t v) s = .next (answered 0x12 0 { s with phase := .idle }) := by
  rw [exec_addAttr_unprotected hp, insertAttribute, storeInsert_full ((hasType_eq_false_iff t s.attr).2 hn) hf,
    next_raiseError, errorCode]

/-! ### The store half of a credential command (R170, R171, R278) -/

/-- A credential that does not fit its buffer is not inserted, whatever the store (R278). -/
theorem insertCredential_tooLong (hc : credMax s.caps < v.length) : insertCredential t v s = none := by
  rw [insertCredential, if_pos hc]

/-- A credential whose type is present leaves the store as it is (R161, R170, R171). -/
theorem insertCredential_present (hc : v.length ≤ credMax s.caps) (h : ∃ a ∈ s.attr, a.code = t) :
    insertCredential t v s = some s := by
  rw [insertCredential, if_neg hc.not_gt, storeInsert_present ((hasType_iff t s.attr).2 h)]

/-- A credential whose entry is new and fits goes to the end of the store (R162, R170, R171). -/
theorem insertCredential_fits (hc : v.length ≤ credMax s.caps) (hn : ∀ a ∈ s.attr, a.code ≠ t)
    (hf : bodySize s.attr + attrsize v ≤ bodyMax s.caps) :
    insertCredential t v s = some { s with attr := s.attr ++ [⟨t, v⟩] } := by
  rw [insertCredential, if_neg hc.not_gt, storeInsert_fits ((hasType_eq_false_iff t s.attr).2 hn) hf]

/-- A credential whose entry is new and does not fit the store is not inserted, whether or not it fits its buffer
(R163, R278). -/
theorem insertCredential_full (hn : ∀ a ∈ s.attr, a.code ≠ t) (hf : bodyMax s.caps < bodySize s.attr + attrsize v) :
    insertCredential t v s = none := by
  rw [insertCredential, storeInsert_full ((hasType_eq_false_iff t s.attr).2 hn) hf, ite_self]

end

/-! ### The two credential commands (R170, R171) -/

section
variable {p : Bytes} {s u : State}

/-- `SET_ATTR_USERNAME` whose credential goes in assigns the buffer and succeeds (R170). -/
theorem exec_setAttrUsername_some (h : insertCredential attrUsername p s = some u) :
    exec (.setAttrUsername p) s = .next (answered 0x00 0 { u with username := p }) := by
  simp only [exec, execSetAttrUsername, h, next_reportOk]

/-- `SET_ATTR_USERNAME` whose credential does not go in raises `CapacityExceeded` (R170, R278). -/
theorem exec_setAttrUsername_none (h : insertCredential attrUsername p s = none) :
    exec (.setAttrUsername p) s = .next (answered 0x12 0 { s with phase := .idle }) := by
  simp only [exec, execSetAttrUsername, h, next_raiseError, errorCode]

/-- `SET_ATTR_REALM` whose credential goes in assigns the buffer and succeeds (R171). -/
theorem exec_setAttrRealm_some (h : insertCredential attrRealm p s = some u) :
    exec (.setAttrRealm p) s = .next (answered 0x00 0 { u with realm := p }) := by
  simp only [exec, execSetAttrRealm, h, next_reportOk]

/-- `SET_ATTR_REALM` whose credential does not go in raises `CapacityExceeded` (R171, R278). -/
theorem exec_setAttrRealm_none (h : insertCredential attrRealm p s = none) :
    exec (.setAttrRealm p) s = .next (answered 0x12 0 { s with phase := .idle }) := by
  simp only [exec, execSetAttrRealm, h, next_raiseError, errorCode]

end

/-! ### New entries -/

/-- Settles O21: an unprotected type is only inserted, and a new entry that fits goes to the end of the store. -/
theorem addAttrAppendsTheEntry : Obligations.AddAttrAppendsTheEntry :=
  fun _ _ _ h1 h2 hn hf => exec_addAttr_fits (isProtected_eq_false h1 h2) hn hf

/-- Settles O22: by R102 each of the three commands is the `ADD_ATTR` of its fixed type and value, and no fixed type is
protected. -/
theorem fixedTypeCommandsAppendTheEntry : Obligations.FixedTypeCommandsAppendTheEntry := by
  obtain ⟨htransport, hlifetime, hnonce, -⟩ := equivalencesBetweenCommands
  refine ⟨fun s hn hf => ?_, fun n s hn hf => ?_, fun p s hn hf => ?_⟩
  · rw [← attrsize_of_length_four (v := requestedTransportUdp) rfl] at hf
    exact (htransport s).trans (exec_addAttr_fits rfl hn hf)
  · rw [← attrsize_of_length_four (length_be32 n)] at hf
    rw [← be32_eq_shifts]
    exact (hlifetime n s).trans (exec_addAttr_fits rfl hn hf)
  · exact (hnonce p s).trans (exec_addAttr_fits rfl hn hf)

/-- Settles O23: a credential that fits its buffer and whose entry is new and fits the store goes into both. -/
theorem credentialCommandsStoreBoth : Obligations.CredentialCommandsStoreBoth :=
  fun _ _ hc hf => ⟨fun hn => exec_setAttrUsername_some (insertCredential_fits hc hn hf),
    fun hn => exec_setAttrRealm_some (insertCredential_fits hc hn hf)⟩

/-! ### Entries that are refused, ignored or do not fit -/

/-- Settles O24: the protected types are tested before the insertion. -/
theorem protectedTypesAreRefused : Obligations.ProtectedTypesAreRefused := by
  intro t v s ht
  have hp : isProtected t = true := (isProtected_iff t).2 ht
  simp only [exec, execAddAttr, hp, if_true, next_raiseError, errorCode]

/-- Settles O25: the store ignores a present type before it tests the capacity, also for the commands that R102 makes an
`ADD_ATTR`; a credential command still writes its buffer. -/
theorem laterInsertionOfATypeIsIgnored : Obligations.LaterInsertionOfATypeIsIgnored := by
  obtain ⟨htransport, hlifetime, hnonce, -⟩ := equivalencesBetweenCommands
  refine fun s => ⟨fun t v h1 h2 h => ?_, fun h => ?_, fun n h => ?_, fun p h => ?_, fun p hc h => ?_, fun p hc h => ?_⟩
  · exact exec_addAttr_present (isProtected_eq_false h1 h2) h
  · exact (htransport s).trans (exec_addAttr_present rfl h)
  · exact (hlifetime n s).trans (exec_addAttr_present rfl h)
  · exact (hnonce p s).trans (exec_addAttr_present rfl h)
  · exact exec_setAttrUsername_some (insertCredential_present hc h)
  · exact exec_setAttrRealm_some (insertCredential_present hc h)

/-- Settles O26, by what does not fit: a credential into its buffer, an entry of any length into the store, an entry with a
four-byte value into the store. -/
theorem capacityExceededChangesNothing : Obligations.CapacityExceededChangesNothing := by
  obtain ⟨htransport, hlifetime, hnonce, -⟩ := equivalencesBetweenCommands
  refine fun s => ⟨fun p hc => ⟨?_, ?_, ?_⟩, fun p hf => ⟨fun hn => ?_, fun hn => ?_, fun hn => ?_, fun t h1 h2 hn => ?_⟩,
    fun hf => ⟨fun hn => ?_, fun n hn => ?_⟩⟩
  · simp only [exec, execSetPassword, hc, if_true, next_raiseError, errorCode]
  · exact exec_setAttrUsername_none (insertCredential_tooLong hc)
  · exact exec_setAttrRealm_none (insertCredential_tooLong hc)
  · exact exec_setAttrUsername_none (insertCredential_full hn hf)
  · exact exec_setAttrRealm_none (insertCredential_full hn hf)
  · exact (hnonce p s).trans (exec_addAttr_full rfl hn hf)
  · exact exec_addAttr_full (isProtected_eq_false h1 h2) hn hf
  · rw [← attrsize_of_length_four (v := requestedTransportUdp) rfl] at hf
    exact (htransport s).trans (exec_addAttr_full rfl hn hf)
  · rw [← attrsize_of_length_four (length_be32 n)] at hf
    exact (hlifetime n s).trans (exec_addAttr_full rfl hn hf)

end Sys2Proof.Machine
end

section
/-!
PROOFS. The numbers of the wire format: the padded sizes (spec/42_serialize.md R195, spec/10_state.md R33) and the message type as
a number (spec/42_serialize.md R192).
-/

namespace Sys2Proof.Machine

/-! ### Padding and sizes -/

/-- No multiple of 4 lies between a length and its padded length (R195). -/
theorem add_padding_le {n m : Nat} (hnm : n ≤ m) (hm : m % 4 = 0) : n + padding n ≤ m := by
  have hmod := add_padding_mod n
  have hlt := padding_lt n
  omega

/-- `body(ATTR)` as the sum over the entries (R33). -/
theorem bodySize_eq_sum (l : List Attribute) : bodySize l = (l.map fun a => attrsize a.value).sum := by
  induction l with
  | nil => rfl
  | cons a l ih => rw [bodySize, ih, List.map_cons, List.sum_cons]

/-- Settles O32: the padding completes a length to the next multiple of 4 and is less than 4, which fixes its values; the
sizes are sums of padded lengths. -/
theorem paddingLaw : Obligations.PaddingLaw := by
  refine ⟨fun n => ⟨add_padding_mod n, fun m => add_padding_le⟩, fun n => ?_, attrsize_mod,
    fun l => ⟨bodySize_mod l, bodySize_eq_sum l, length_wireAttributes l⟩⟩
  have hmod := add_padding_mod n
  have hlt := padding_lt n
  omega

/-! ### The message type as a number -/

/-- Words put together are the upper one shifted past the lower one, plus the lower one. -/
theorem toNat_append_eq_add {v w : Nat} (x : BitVec v) (y : BitVec w) : (x ++ y).toNat = x.toNat * 2 ^ w + y.toNat := by
  rw [BitVec.toNat_append, ← Nat.shiftLeft_add_eq_or_of_lt y.isLt, Nat.shiftLeft_eq]

/-- The message type is the sum of its five groups, each at its place in the layout of R104. -/
theorem toNat_packType (m : Method) (c : MsgClass) : (packType m c).toNat =
    m.toNat / 128 * 512 + c.toNat / 2 * 256 + m.toNat / 16 % 8 * 32 + c.toNat % 2 * 16 + m.toNat % 16 := by
  have hm := m.isLt
  have hc := c.isLt
  rw [messageTypeBitLayout m c]
  simp only [toNat_append_eq_add, BitVec.extractLsb'_toNat, Nat.shiftRight_eq_div_pow, BitVec.ofNat_eq_ofNat,
    BitVec.toNat_ofNat]
  omega

/-- The groups of a message type give its method and class back (R192 (a)). -/
theorem packType_injective {m m' : Method} {c c' : MsgClass} (h : packType m c = packType m' c') : m = m' ∧ c = c' := by
  have hnum := congrArg BitVec.toNat h
  rw [toNat_packType, toNat_packType] at hnum
  have hc := c.isLt
  have hc' := c'.isLt
  exact ⟨BitVec.eq_of_toNat_eq (by omega), BitVec.eq_of_toNat_eq (by omega)⟩

/-- A method below 0x010 lies in the lowest group, which is at its own place (R192 (c)). -/
theorem packType_of_lt {m : Method} (h : m < 0x010) : packType m 0 = m.setWidth 16 := by
  have hm : m.toNat < 16 := h
  apply BitVec.eq_of_toNat_eq
  rw [toNat_packType, BitVec.toNat_setWidth]
  simp only [BitVec.ofNat_eq_ofNat, BitVec.toNat_ofNat]
  omega

/-- The class bits stand at 0x0010 and 0x0100 of the message type, apart from the method's (R192 (d)). -/
theorem packType_class (m : Method) (c : MsgClass) :
    packType m c = packType m 0 + BitVec.ofNat 16 (c.toNat / 2 * 256 + c.toNat % 2 * 16) := by
  have hm := m.isLt
  have hc := c.isLt
  apply BitVec.eq_of_toNat_eq
  simp only [toNat_packType, BitVec.toNat_add, BitVec.ofNat_eq_ofNat, BitVec.toNat_ofNat]
  omega

/-- Settles O30: the message type as a number, from which the groups can be read off. -/
theorem messageTypePackingIsInjective : Obligations.MessageTypePackingIsInjective :=
  ⟨fun _ _ _ _ => packType_injective, fun _ => packType_of_lt,
    fun m => ⟨packType_class m 1, packType_class m 2, packType_class m 3⟩⟩

end Sys2Proof.Machine
end

section
/-!
PROOFS. What `SERIALIZE` answers and changes (spec/42_serialize.md R196 to R212): the state after each of its three ends, the length
field of its output, and that it cannot fault in a state with the invariants.
-/

namespace Sys2Proof.Machine

/-! ### The three ends -/

/-- `INFO` of a successful `SERIALIZE` is the Message Length: its 16 bits hold every length that fits the buffer (R208). -/
theorem toNat_finalLength {s : State} (hb : bodySize s.attr ≤ bodyMax s.caps) :
    (BitVec.ofNat 16 (finalLength s)).toNat = finalLength s := by
  have hle := finalLength_le hb
  have hmax := obufBytes_le s.caps
  rw [BitVec.toNat_ofNat, Nat.mod_eq_of_lt (by omega)]

/-- Settles O36: the phases build the wire message, and the end of the command reports its size. -/
theorem serializeProducesTheWireMessage : Obligations.SerializeProducesTheWireMessage := by
  intro s f hc ha hb
  have hs := serialize_accepted platformPrimitives hc ha hb
  exact ⟨_, (exec_serialize_iff s _).2 hs, rfl, serialized_olen platformPrimitives f hb, toNat_finalLength hb⟩

/-- Settles O37: the configuration check raises with the mask, which is the number of R29. -/
theorem serializeUnconfiguredIsRefused : Obligations.SerializeUnconfiguredIsRefused := by
  intro s hc
  have hs := serialize_unconfigured platformPrimitives hc
  rw [missingMask_eq] at hs
  exact ⟨_, (exec_serialize_iff s _).2 hs, rfl⟩

/-- Settles O38: phase `KEY` raises with the index at which the filter failed. -/
theorem serializeWithRejectedPassword : Obligations.SerializeWithRejectedPassword := by
  intro s i hc hm hf
  have hs := serialize_rejected platformPrimitives hc hm hf
  exact ⟨_, (exec_serialize_iff s _).2 hs, rfl⟩

/-! ### The message -/

/-- Settles O39: the frame of `SERIALIZE` holds no element of the message. -/
theorem serializeKeepsTheMessage : Obligations.SerializeKeepsTheMessage :=
  fun s t h => serialize_sameMessage ((exec_serialize_iff s t).1 h)

/-- Settles O44: which of the three ends `SERIALIZE` has, and what it writes there, is read from the message. -/
theorem outputDependsOnTheMessageOnly : Obligations.OutputDependsOnTheMessageOnly := by
  intro s u t hsu hb h
  obtain ⟨v, hv, hout⟩ := serialize_of_sameMessage hsu hb ((exec_serialize_iff s t).1 h)
  exact ⟨v, (exec_serialize_iff u v).2 hv, hout⟩

/-! ### The length field -/

/-- The two bytes of `be16` put together are the number (R11). -/
theorem be16_append (v : Word16) : v.extractLsb' 8 8 ++ v.extractLsb' 0 8 = v := by
  rw [BitVec.extractLsb'_append_extractLsb'_eq_extractLsb' (by rfl)]
  exact BitVec.extractLsb'_eq_self ..

/-- Settles O40: bytes 2 and 3 of the wire message are the final length, whatever the enable flags. -/
theorem messageLengthFieldIsSizeMinusHeader : Obligations.MessageLengthFieldIsSizeMinusHeader := by
  intro s t hb h hr
  obtain ⟨f, -, rfl⟩ := exec_serialize_success hb h hr
  have hread (k : Nat) := obufRead_ofBytes 0
    (wireMessage platformPrimitives (hmacKey platformPrimitives s.username s.realm f) s) k
  simp only [Nat.zero_add] at hread
  refine ⟨_, _, hread 2, hread 3, ?_⟩
  rw [be16_append, toNat_finalLength hb, serialized_olen platformPrimitives f hb, Nat.add_comm]

/-! ### No fault -/

/-- With a store within `BODY_MAX` every command has a next state: the three ends of `SERIALIZE` are all it can do, and no
other command can stop (R212, R270). -/
theorem exec_ends (i : Instr) {s : State} (hb : bodySize s.attr ≤ bodyMax s.caps) : ∃ t, exec i s = .next t := by
  by_cases hi : i = .serialize
  · subst hi
    rcases serialize_cases platformPrimitives hb with ⟨-, e⟩ | ⟨_, -, -, -, e⟩ | ⟨_, -, -, e⟩ <;>
      exact ⟨_, (exec_serialize_iff s _).2 e⟩
  · exact exec_next s hi

/-- An illegal command presented to an idle block raises (R130, R276). -/
theorem acceptCommand_illegal {d : Descriptor} {p : Bytes} {x : Illegal} {s : State} (hi : s.phase = .idle)
    (hd : decode d p = .error x) :
    acceptCommand d p s = .next (raiseError .illegalCommand ((fieldOpc d).zeroExtend 16) s) := by
  simp [acceptCommand, hi, hd]

/-- An idle block with a store within `BODY_MAX` has a next state for every command presented, legal or not (R130, R212). -/
theorem acceptCommand_ends {s : State} (hi : s.phase = .idle) (hb : bodySize s.attr ≤ bodyMax s.caps) (d : Descriptor)
    (p : Bytes) : ∃ t, acceptCommand d p s = .next t := by
  cases hd : decode d p with
  | error x => exact ⟨_, acceptCommand_illegal hi hd⟩
  | ok i => rw [acceptCommand_legal hi hd]; exact exec_ends i hb

/-- The output read port never faults: it gives a byte or refuses (R79). -/
theorem readOutput_ne_fault (i : Offset) (s : State) (e : Fault) : readOutput i s ≠ .fault e := by
  unfold readOutput
  split <;> nofun

/-- Settles O59: of the events at the ports only a command could fault, and under the invariants the block is idle and the
store fits. -/
theorem noStepFaultsUnderTheInvariants : Obligations.NoStepFaultsUnderTheInvariants := by
  intro s h
  have hcommand (d : Descriptor) (p : Bytes) (rest : List PortEvent) (hp : s.port = .command d p :: rest) :
      ∃ t, step s = .next t := by
    rw [step_command hp]
    exact acceptCommand_ends (s := { s with port := rest }) h.idle h.store.fits d p
  refine ⟨fun e => ?_, hcommand⟩
  match hp : s.port with
  | [] => simp [step, serve, hp]
  | .command d p :: rest =>
    obtain ⟨t, ht⟩ := hcommand d p rest hp
    rw [ht]
    nofun
  | .readOut i :: rest => rw [step_readOut hp]; exact readOutput_ne_fault i _ e
  | .reset :: rest => simp [step, serve, hp]

end Sys2Proof.Machine
end

section
/-!
PROOFS. The integrity and fingerprint engine (spec/43_trailer_engine.md R231 to R240): the password filter as one equation, the
two key modes, and the two trailers as pieces of the wire message.
-/

namespace Sys2Proof.Machine

/-! ### The password filter -/

/-- Settles O33, by the model's tests in order, with the bytes as numbers: each test that succeeds gives the class, and where
all fail the byte passes. -/
theorem passwordByteClasses : Obligations.PasswordByteClasses := by
  intro b
  have hb := b.isLt
  simp only [byteClass, BitVec.toNat_eq, BitVec.lt_def, BitVec.le_def, BitVec.ofNat_eq_ofNat, BitVec.toNat_ofNat]
  split_ifs with hdrop hspace hfail
  all_goals simp only [true_iff, false_iff]
  all_goals omega

/-- What the filter keeps of a password without failing bytes: 0xAD is dropped and 0xA0 becomes a space (R231). -/
def filteredBytes (p : Bytes) : Bytes :=
  (p.filter fun b => b != 0xAD).map fun b => if b = 0xA0 then 0x20 else b

theorem filteredBytes_cons (b : Byte) (p : Bytes) : filteredBytes (b :: p) = filteredBytes [b] ++ filteredBytes p := by
  simp only [filteredBytes, ← List.map_append, ← List.filter_append, List.singleton_append]

/-- The filter stops at a byte of the fail class (R231). -/
theorem filterFrom_cons_fail {b : Byte} (hb : byteClass b = .fail) (n : Nat) (p : Bytes) :
    filterFrom n (b :: p) = .error n := by
  simp [filterFrom, hb]

/-- A byte of another class goes through on its own, and the filter goes on after it (R231). -/
theorem filterFrom_cons_of_ne_fail {b : Byte} (hb : byteClass b ≠ .fail) (n : Nat) (p : Bytes) :
    filterFrom n (b :: p) = (filterFrom (n + 1) p).map (filteredBytes [b] ++ ·) := by
  rw [filterFrom]
  by_cases hdrop : b = 0xAD
  · subst hdrop
    cases filterFrom (n + 1) p <;> rfl
  by_cases hspace : b = 0x20 ∨ b = 0xA0
  · rcases hspace with rfl | rfl <;> rfl
  · have hpass : byteClass b = .pass := by simp_all [byteClass]
    have hkept : filteredBytes [b] = [b] := by simp_all [filteredBytes]
    simp [hpass, hkept]

/-- The filter from index `n` on: it fails at the first byte of the fail class, and without one gives the filtered bytes. -/
theorem filterFrom_eq (n : Nat) (p : Bytes) : filterFrom n p =
    (p.findIdx? fun b => byteClass b = .fail).elim (.ok (filteredBytes p)) fun i => .error (n + i) := by
  induction p generalizing n with
  | nil => rfl
  | cons b p ih =>
    rw [List.findIdx?_cons]
    by_cases hb : byteClass b = .fail
    · simp [filterFrom_cons_fail hb, hb]
    · rw [filterFrom_cons_of_ne_fail hb, ih, filteredBytes_cons b p]
      cases p.findIdx? fun b => byteClass b = .fail with
      | none => simp [hb, Except.map]
      | some i => simp [hb, Except.map, Nat.add_right_comm, Nat.add_assoc]

/-- Settles O34, by the filter's equation: the index found is that of the first failing byte. -/
theorem passwordFilterResult : Obligations.PasswordFilterResult := by
  intro p
  rw [passwordFilter, filterFrom_eq]
  refine ⟨fun i => ?_, fun hp => ?_⟩
  · trans p.findIdx? (fun b => byteClass b = .fail) = some i
    · cases p.findIdx? fun b => byteClass b = .fail <;> simp
    · simp [List.findIdx?_eq_some_iff_getElem]
  · rw [List.findIdx?_eq_none_iff.2 (by simpa using hp)]
    rfl

/-! ### The key -/

/-- The long-term key (R233). -/
theorem hmacKey_longTerm (h : Primitives) {u : Bytes} (hu : u ≠ []) (r f : Bytes) :
    hmacKey h u r f = (h.md5 (u ++ 0x3A :: (r ++ 0x3A :: f))).toList := by
  rw [hmacKey, if_pos (List.length_pos_of_ne_nil hu)]
  simp

/-- The short-term key (R233). -/
theorem hmacKey_shortTerm (h : Primitives) (r f : Bytes) : hmacKey h [] r f = f := rfl

/-- Settles O35: an accepted password gives the key of the mode the username chooses, a rejected one gives none. -/
theorem keyDerivationModes : Obligations.KeyDerivationModes := by
  intro h s
  refine ⟨fun f hf => ⟨fun hu => ?_, fun hu => ?_⟩, fun i hi => ?_⟩
  · simp only [deriveKey, hf, hmacKey_longTerm h hu]
  · simp only [deriveKey, hf, hu, hmacKey_shortTerm]
  · simp only [deriveKey, hi]

/-! ### The trailers -/

/-- MESSAGE-INTEGRITY follows the framed stored attributes (R71, R236). -/
theorem wireMessage_integrity (p : Primitives) (k : Bytes) {s : State} (hm : s.miEn = true) :
    ((wireMessage p k s).drop (20 + bodySize s.attr)).take 24 = wireIntegrity p k s := by
  simp [wireMessage, wireBody, hm, ← List.drop_drop, List.append_assoc]

/-- Settles O42: the accepted password is the one given, and the trailer is its piece of the wire message. -/
theorem messageIntegrityValue : Obligations.MessageIntegrityValue := by
  intro s t f hb h hr hm hf
  obtain ⟨f', ha, rfl⟩ := exec_serialize_success hb h hr
  obtain rfl : f' = f := Except.ok.inj ((ha hm).symm.trans hf)
  have hfit : 20 + bodySize s.attr + 24 ≤ 20 + finalLength s := by
    rw [finalLength, if_pos hm]; omega
  rw [obufReadBytes_serialized _ f' hfit, wireMessage_integrity _ _ hm]
  rfl

/-- With FINGERPRINT enabled the message is the data of the CRC and the attribute (R71, R239). -/
theorem wireMessage_fingerprint (p : Primitives) (k : Bytes) {s : State} (hf : s.fpEn = true) :
    wireMessage p k s = fingerprintData p k s ++ wireFingerprint p k s := by
  rw [wireMessage, if_pos hf, fingerprintData]

/-- The data of the CRC are all but the last 8 bytes of the message (R239). -/
theorem length_fingerprintData (p : Primitives) (k : Bytes) {s : State} (hf : s.fpEn = true) :
    (fingerprintData p k s).length = 20 + finalLength s - 8 := by
  have hlen := length_wireMessage p k s
  rw [wireMessage_fingerprint p k hf, List.length_append, length_wireFingerprint] at hlen
  omega

/-- Settles O43: the wire message is the data of the CRC followed by the attribute, and the length inside is the final one. -/
theorem fingerprintValue : Obligations.FingerprintValue := by
  intro s t hb h hr hf
  obtain ⟨f, -, rfl⟩ := exec_serialize_success hb h hr
  rw [serialized_olen _ f hb]
  have hlen := length_fingerprintData platformPrimitives (hmacKey platformPrimitives s.username s.realm f) hf
  have hread {k n : Nat} (hkn : k + n ≤ 20 + finalLength s) := obufReadBytes_serialized platformPrimitives f hkn
  simp only [wireMessage_fingerprint _ _ hf] at hread
  refine ⟨fingerprintData platformPrimitives (hmacKey platformPrimitives s.username s.realm f) s, ?_, ?_, ?_⟩
  · rw [hread (by omega), List.drop_zero, ← hlen, List.take_left]
  · rw [Nat.add_sub_cancel_left]
    rfl
  · have hfit : 20 + finalLength s - 8 + 8 ≤ 20 + finalLength s := by
      rw [finalLength, if_pos hf]; omega
    rw [hread hfit, ← hlen, List.drop_left]
    rfl

end Sys2Proof.Machine
end

section
/-!
PROOFS. The exceptions (spec/60_exceptions.md R270 to R282): every command ends and answers, with which result codes, what an
error leaves unchanged, and that no command depends on the password while integrity is disabled.
-/

namespace Sys2Proof.Machine

/-! ### The ports -/

/-- Settles O8: an illegal command raises on the idle block, so writing `PHASE` changes nothing. -/
theorem illegalCommandChangesNothing : Obligations.IllegalCommandChangesNothing := by
  intro s d p rest e hp hi hd
  have hidle : { s with port := rest, phase := .idle } = { s with port := rest } := by rw [← hi]
  rw [step_command hp, acceptCommand_illegal (s := { s with port := rest }) hi hd, next_raiseError, hidle]
  rfl

/-- Settles O12: with no event at the ports there is nothing to serve. -/
theorem idleBlockWaits : Obligations.IdleBlockWaits := by
  intro s hp
  simp [step, serve, hp]

/-! ### How a command can end -/

/-- Phase `KEY` can fail only with integrity enabled (R202). -/
theorem miEn_of_keyPhase_error {p : Primitives} {s : State} {i : Nat} (h : keyPhase p s = .error i) : s.miEn = true := by
  by_contra hm
  rw [keyPhase, if_neg hm] at h
  cases h

/-- Every end of `SERIALIZE`, also with a store that does not fit: an error for the configuration, an error for the password with
integrity enabled, or success (R271). -/
theorem serialize_ends {p : Primitives} {s t : State} (h : serialize p s = .ok t) :
    (∃ info, t = serializeFailed .notConfigured info s)
    ∨ (s.miEn = true ∧ ∃ info, t = serializeFailed .credentialFormatError info s)
    ∨ ∃ info u, t = freeScratch (reportOk info u) := by
  unfold serialize at h
  simp only at h
  split at h
  · cases h
    exact .inl ⟨_, rfl⟩
  · split at h
    · next hk =>
      cases h
      exact .inr (.inl ⟨miEn_of_keyPhase_error (s := startOutput s) hk, _, rfl⟩)
    · next u hk =>
      cases hw : writeMessage p u with
      | error => rw [hw] at h; cases h
      | ok v =>
        obtain ⟨_, _, _, _, _, _, _, _, rfl⟩ := writeMessage_frame hw
        rw [hw] at h
        cases h
        exact .inr (.inr ⟨_, _, rfl⟩)

/-- The response word at the port is the one of `RESULT` and `INFO` (R92). -/
theorem exec_portOut {i : Instr} {s t : State} (h : exec i s = .next t) :
    t.portOut = .response (responseWord t.result t.info) := by
  cases exec_effect h with
  | cleared => rfl
  | serialized h => obtain ⟨_, rfl⟩ | ⟨-, _, rfl⟩ | ⟨_, _, rfl⟩ := serialize_ends h <;> rfl
  | raised => rfl
  | done => rfl

/-- No command is refused: only `SERIALIZE` can stop, and it stops with a fault (R284). -/
theorem exec_ne_refused (i : Instr) (s : State) (r : Refusal) : exec i s ≠ .refused r := by
  by_cases hi : i = .serialize
  · subst hi
    simp only [exec, execSerialize]
    split <;> nofun
  · obtain ⟨t, h⟩ := exec_next s hi
    rw [h]
    nofun

/-- Settles O46: a store that fits is needed for the next state only. -/
theorem everyCommandEndsWithAResponse : Obligations.EveryCommandEndsWithAResponse :=
  fun i s => ⟨exec_ends i, exec_ne_refused i s, fun _ h => exec_portOut h⟩

/-! ### Which result code -/

/-- An insertion succeeds or runs out of room (R163). -/
theorem insertAttribute_result (a : Word16) (v : Bytes) (s : State) :
    (insertAttribute a v s).result = 0x00 ∨ (insertAttribute a v s).result = 0x12 := by
  rcases insertAttribute_cases a v s with ⟨h, -⟩ | ⟨h, -⟩ | ⟨h, -⟩ <;> rw [h]
  · exact .inl rfl
  · exact .inr rfl
  · exact .inl rfl

/-- Of the commands that need room only `ADD_ATTR` can end with more than success or `CapacityExceeded` (R271). -/
theorem exec_result_of_ne_addAttr {i : Instr} {s t : State} (h : exec i s = .next t) (hi : mayRaise i = true)
    (ha : opcodeOf i ≠ .addAttr) : t.result = 0x00 ∨ t.result = 0x12 := by
  cases i with
  | clear | setMethod | setClass | setTid | setFpEn | setMiEn | getStatus | serialize => cases hi
  | addAttr => exact absurd rfl ha
  | setPassword | setAttrUsername | setAttrRealm =>
    cases h
    split
    · exact .inr rfl
    · exact .inl rfl
  | setAttrRequestedTransport | setAttrLifetime | setAttrNonce => cases h; exact insertAttribute_result ..

/-- Only `ADD_ATTR` can raise `PolicyViolation` (R167, R271). -/
theorem opcodeOf_of_policyViolation {i : Instr} {s : State} {info : Word16} (hi : mayRaise i = true)
    (h : exec i s = .next (raiseError .policyViolation info s)) : opcodeOf i = .addAttr := by
  by_contra ha
  rcases exec_result_of_ne_addAttr h hi ha with e | e <;> simp [errorCode] at e

/-- The opcodes of the builder commands that can raise an error (R271). -/
theorem opcodeOf_mem_of_mayRaise {i : Instr} (hi : mayRaise i = true) :
    opcodeOf i ∈ [Opcode.setPassword, .setAttrUsername, .setAttrRealm, .setAttrNonce, .setAttrLifetime,
      .setAttrRequestedTransport, .addAttr] := by
  cases i with
  | clear | setMethod | setClass | setTid | setFpEn | setMiEn | getStatus | serialize => cases hi
  | _ => simp [opcodeOf]

/-- Settles O47, by the effects of a command: of the two errors a builder command can raise, `PolicyViolation` tells which
command it was. -/
theorem resultCodesByCommand : Obligations.ResultCodesByCommand := by
  intro i s t h
  cases exec_effect h with
  | cleared => exact .inl rfl
  | serialized hs =>
    obtain ⟨_, rfl⟩ | ⟨hm, _, rfl⟩ | ⟨_, _, rfl⟩ := serialize_ends hs
    · exact .inr (.inr (.inr (.inl ⟨rfl, rfl⟩)))
    · exact .inr (.inr (.inl ⟨rfl, rfl, hm⟩))
    · exact .inl rfl
  | raised k info hi hk =>
    rcases hk with rfl | rfl
    · exact .inr (.inl ⟨rfl, opcodeOf_of_policyViolation hi h⟩)
    · exact .inr (.inr (.inr (.inr ⟨rfl, opcodeOf_mem_of_mayRaise hi⟩)))
  | done => exact .inl rfl

/-! ### What an error leaves unchanged -/

/-- Settles O48, by the effects of a command: only `raiseError` ends with an error, and it writes no more. -/
theorem errorsArePrecise : Obligations.ErrorsArePrecise := by
  intro i s t hi h hr
  cases exec_effect h with
  | cleared => exact absurd rfl hr
  | serialized => exact absurd rfl hi
  | raised => rfl
  | done => exact absurd rfl hr

/-! ### The password -/

/-- An insertion does not look at the password. -/
theorem insertAttribute_setPassword (a : Word16) (v q : Bytes) (s : State) :
    insertAttribute a v { s with password := q } = { insertAttribute a v s with password := q } := by
  unfold insertAttribute
  cases storeInsert s.caps a v s.attr <;> rfl

/-- The store half of a credential command does not look at the password. -/
theorem insertCredential_setPassword (a : Word16) (p q : Bytes) (s : State) :
    insertCredential a p { s with password := q } = (insertCredential a p s).map ({ · with password := q }) := by
  unfold insertCredential
  split
  · rfl
  · cases storeInsert s.caps a p s.attr <;> rfl

/-- `SERIALIZE` without integrity does not look at the password: it can only fail for the configuration, and the accepted
password is no part of the message (R313). -/
theorem serialize_setPassword (p : Primitives) {s t : State} (q : Bytes) (hm : s.miEn = false)
    (hb : bodySize s.attr ≤ bodyMax s.caps) (h : serialize p s = .ok t) :
    serialize p { s with password := q } = .ok { t with password := q } := by
  rcases serialize_cases p hb with ⟨hc, e⟩ | ⟨_, -, hm', -, -⟩ | ⟨f, hc, -, e⟩
  · cases e.symm.trans h
    exact serialize_unconfigured p (s := { s with password := q }) hc
  · cases hm.symm.trans hm'
  · cases e.symm.trans h
    have ha : PasswordAccepted { s with password := q } f := fun hm' => by cases hm.symm.trans hm'
    exact serialize_accepted p (s := { s with password := q }) hc ha hb

/-- Settles O54: the commands that write no password look at it only in phase `KEY` of `SERIALIZE`. -/
theorem passwordUnseenWithoutIntegrity : Obligations.PasswordUnseenWithoutIntegrity := by
  intro i s t q hm hb hp hc h
  cases i with
  | clear => exact absurd rfl hc
  | setPassword => exact absurd rfl hp
  | setMethod | setClass | setTid | setFpEn | setMiEn | getStatus => cases h; rfl
  | setAttrRequestedTransport | setAttrLifetime | setAttrNonce =>
    cases h
    exact congrArg _ (insertAttribute_setPassword ..)
  | setAttrUsername p | setAttrRealm p =>
    cases h
    simp only [exec, execSetAttrUsername, execSetAttrRealm, insertCredential_setPassword]
    cases insertCredential _ p s <;> rfl
  | addAttr a v =>
    cases h
    simp only [exec, execAddAttr, insertAttribute_setPassword]
    split <;> rfl
  | serialize =>
    have hs := serialize_setPassword platformPrimitives q hm hb ((exec_serialize_iff s t).1 h)
    exact (exec_serialize_iff _ _).2 hs

end Sys2Proof.Machine
end

section
/-!
PROOFS. Reset and the hazards of a command sequence (spec/70_reset_and_hazards.md R301, R306, R309): `Reset` in every state, a
command during another, and a credential username that is no longer the one of its attribute.
-/

namespace Sys2Proof.Machine

/-! ### Reset, and a command during another -/

/-- A step whose first event is `Reset` puts every element to its reset value, without the event (R300, R301). -/
theorem step_reset {s : State} {rest : List PortEvent} (hp : s.port = .reset :: rest) :
    step s = .next (wipe { s with port := rest }) := by
  simp [step, serve, hp]

/-- A command presented to a busy block is refused, whatever its descriptor and payload (R306). -/
theorem acceptCommand_busy {s : State} (hi : s.phase ≠ .idle) (d : Descriptor) (p : Bytes) :
    acceptCommand d p s = .refused .commandWhileBusy :=
  if_pos hi

/-- Settles O9: the command port tests for a busy block before it decodes. -/
theorem commandWhileBusyIsRefused : Obligations.CommandWhileBusyIsRefused :=
  fun s d p rest hp hi => (step_command hp).trans (acceptCommand_busy (s := { s with port := rest }) hi d p)

/-- Settles O10: `Reset` is served without a look at the state, by the operation that writes the table of R40. -/
theorem resetFromEveryState : Obligations.ResetFromEveryState :=
  fun _ _ hp => step_reset hp

/-! ### The username and its attribute -/

/-- A credential that goes in leaves an entry of its type in the store, new or earlier (R161, R162). -/
theorem hasType_of_insertCredential {a : Word16} {p : Bytes} {s u : State} (h : insertCredential a p s = some u) :
    hasType a u.attr = true := by
  rcases insertCredential_cases a p s with ⟨e, -⟩ | ⟨e, -, ht⟩ | ⟨e, -⟩ <;> cases e.symm.trans h
  · exact ht
  · simp [hasType]

/-- A credential that goes in beside an entry of its type leaves the state as it is (R161). -/
theorem insertCredential_eq_self {a : Word16} {p : Bytes} {s u : State} (ht : hasType a s.attr = true)
    (h : insertCredential a p s = some u) : u = s := by
  rcases insertCredential_cases a p s with ⟨e, -⟩ | ⟨e, -⟩ | ⟨-, -, hn, -⟩
  · cases e.symm.trans h
  · cases e.symm.trans h; rfl
  · cases hn.symm.trans ht

/-- A `SET_ATTR_USERNAME` that answers success has had its credential go in (R170). -/
theorem insertCredential_of_setAttrUsername {p : Bytes} {s t : State} (h : exec (.setAttrUsername p) s = .next t)
    (hr : t.result = 0x00) :
    ∃ u, insertCredential attrUsername p s = some u ∧ t = answered 0x00 0 { u with username := p } := by
  cases hi : insertCredential attrUsername p s with
  | none =>
    cases (exec_setAttrUsername_none hi).symm.trans h
    exact absurd hr (errorCode_ne_zero .capacityExceeded)
  | some u =>
    cases (exec_setAttrUsername_some hi).symm.trans h
    exact ⟨u, rfl, rfl⟩

/-- Settles O28: the first success leaves a USERNAME in the store, so the second inserts none and only overwrites the buffer;
no `ADD_ATTR` writes the buffer (`credentialsAndTheirWriters`). -/
theorem usernameAndItsAttributeComeApart : Obligations.UsernameAndItsAttributeComeApart := by
  refine ⟨fun p q s t u hp htr hq hur => ?_, fun v s t h => (credentialsAndTheirWriters (.addAttr 0x0006 v) s t h).1⟩
  have ht : hasType attrUsername t.attr = true := by
    obtain ⟨v, hfirst, rfl⟩ := insertCredential_of_setAttrUsername hp htr
    exact hasType_of_insertCredential (u := v) hfirst
  obtain ⟨_, hsecond, rfl⟩ := insertCredential_of_setAttrUsername hq hur
  cases insertCredential_eq_self ht hsecond
  exact ⟨rfl, rfl⟩

end Sys2Proof.Machine
end
